-- ==== Sys2Proof/Word.lean ====
section
/-! DEFINITION. The word types: the 32-bit register word (R7, R13), the byte of EBUF (R8) and the 256-bit scalar (R16). -/

namespace Sys2Proof

/-- A register or command word: 32 bits (R13). -/
abbrev Word := BitVec 32

/-- One byte of the encoded-point buffer (R25). -/
abbrev Byte := BitVec 8

/-- The contents of a scalar register: any 256-bit value (R16). -/
abbrev Scalar := BitVec 256

end Sys2Proof
end

