-- ==== Sys2Proof/Syntax.lean ====
section
/-! DEFINITION. The six commands of the opcode table (R67), with their operands named as R64 and R73 name them. -/

namespace Sys2Proof

/-- A scalar register index, S0 to S3 (R16). -/
inductive SReg where
  | s0 | s1 | s2 | s3
deriving DecidableEq, Repr

/-- A point register index, P0 to P3 (R17). -/
inductive PReg where
  | p0 | p1 | p2 | p3
deriving DecidableEq, Repr

/-- The point format chosen by the F bit (R65): `C` (F = 0, 33 bytes) or `U` (F = 1, 65 bytes). -/
inductive PointFormat where
  | compressed
  | uncompressed
deriving DecidableEq, Repr

/-- One command: one constructor per row of the opcode table, destination first as in R73. -/
inductive Instr where
  /-- SADD Sd, Sa, Sb (R79). -/
  | sadd (d a b : SReg)
  /-- PDBL Pd, Pa (R99). -/
  | pdbl (d a : PReg)
  /-- PADD Pd, Pa, Pb (R101). -/
  | padd (d a b : PReg)
  /-- PMUL Pd, Sa, Pb (R103). -/
  | pmul (d : PReg) (a : SReg) (b : PReg)
  /-- PCOMP Pa, C | U (R107). -/
  | pcomp (a : PReg) (f : PointFormat)
  /-- PDEC Pd, C | U (R111). -/
  | pdec (d : PReg) (f : PointFormat)
deriving DecidableEq, Repr

/-- The one pseudo-instruction, `PMULG Pd, Sa`: its expansion `PMUL Pd, Sa, P0` (R74). -/
def Instr.pmulg (d : PReg) (a : SReg) : Instr := .pmul d a .p0

end Sys2Proof
end

