-- ==== Sys2Proof/WellFormed.lean ====
section
/-! DEFINITION. Which terms of `Instr` a command word can carry: a point destination is never P0 (R18, R64). -/

namespace Sys2Proof

/-- A point register may be a destination exactly when it is not the hardwired P0 (R18, R71 item 4). -/
def PReg.isDest : PReg → Bool
  | .p0 => false
  | .p1 => true
  | .p2 => true
  | .p3 => true

/-- The check of R64's D column: PDBL, PADD, PMUL and PDEC need D ≠ 0; SADD and PCOMP have no such condition. -/
def Instr.wellFormed : Instr → Bool
  | .sadd _ _ _ => true
  | .pdbl d _ => d.isDest
  | .padd d _ _ => d.isDest
  | .pmul d _ _ => d.isDest
  | .pcomp _ _ => true
  | .pdec d _ => d.isDest

/-- The decidable proposition that an instruction is well formed. -/
abbrev Instr.WellFormed (i : Instr) : Prop := i.wellFormed = true

end Sys2Proof
end

