-- ==== Sys2Proof/Decode.lean ====
section
/-! DEFINITION. The command decoder of R69, total on all 2^32 words, with a named reason for each word it rejects
(R71), and after it the encoder of R76. -/

namespace Sys2Proof

/-- Why a word is illegal: the four cases of R71, in its order.
Each of them is an InvalidCommand error at the word's completion (R70, R71), never a fault. -/
inductive DecodeError where
  /-- A bit of RES0, RES1, RES2 or RES3 is 1. -/
  | reservedBit
  /-- OP is 0x00 or 0x07 to 0xFF. -/
  | reservedOpcode
  /-- A field that R64 marks "must be 0" is not 0. -/
  | fieldNotZero
  /-- PDBL, PADD, PMUL or PDEC names D = 0. -/
  | destinationP0
deriving DecidableEq, Repr

/-! ## Fields (R63) -/

/-- OP, bits 7:0 (R63). -/
def opField (w : Word) : BitVec 8 := w.extractLsb' 0 8

/-- D, bits 9:8 (R63). -/
def dField (w : Word) : BitVec 2 := w.extractLsb' 8 2

/-- RES0, bits 11:10 (R63). -/
def res0Field (w : Word) : BitVec 2 := w.extractLsb' 10 2

/-- A, bits 13:12 (R63). -/
def aField (w : Word) : BitVec 2 := w.extractLsb' 12 2

/-- RES1, bits 15:14 (R63). -/
def res1Field (w : Word) : BitVec 2 := w.extractLsb' 14 2

/-- B, bits 17:16 (R63). -/
def bField (w : Word) : BitVec 2 := w.extractLsb' 16 2

/-- RES2, bits 23:18 (R63). -/
def res2Field (w : Word) : BitVec 6 := w.extractLsb' 18 6

/-- F, bit 24 (R63). -/
def fField (w : Word) : BitVec 1 := w.extractLsb' 24 1

/-- RES3, bits 31:25 (R63). -/
def res3Field (w : Word) : BitVec 7 := w.extractLsb' 25 7

/-- A 2-bit index as a scalar register (R64). -/
def SReg.ofBits (b : BitVec 2) : SReg :=
  if b = 0 then .s0 else if b = 1 then .s1 else if b = 2 then .s2 else .s3

/-- A scalar register's 2-bit index (R64). -/
def SReg.bits : SReg → BitVec 2
  | .s0 => 0 | .s1 => 1 | .s2 => 2 | .s3 => 3

/-- A 2-bit index as a point register (R64). -/
def PReg.ofBits (b : BitVec 2) : PReg :=
  if b = 0 then .p0 else if b = 1 then .p1 else if b = 2 then .p2 else .p3

/-- A point register's 2-bit index (R64). -/
def PReg.bits : PReg → BitVec 2
  | .p0 => 0 | .p1 => 1 | .p2 => 2 | .p3 => 3

/-- F = 0 is the compressed form, F = 1 the uncompressed one (R65). -/
def PointFormat.ofBit (b : BitVec 1) : PointFormat := if b = 0 then .compressed else .uncompressed

/-- The F bit of a format (R65). -/
def PointFormat.bit : PointFormat → BitVec 1
  | .compressed => 0
  | .uncompressed => 1

/-! ## Decode (R69) -/

/-- Rejects an instruction whose point destination is P0 (R71 item 4). -/
def requireDest (i : Instr) : Except DecodeError Instr :=
  if i.wellFormed then .ok i else .error .destinationP0

/-- R69's `case op of`, on a word whose reserved bits are 0. -/
def decodeOp (w : Word) : Except DecodeError Instr :=
  let d := dField w
  let a := aField w
  let b := bField w
  let f := fField w
  match (opField w).toNat with
  | 0x01 => if f ≠ 0 then .error .fieldNotZero
            else .ok (.sadd (SReg.ofBits d) (SReg.ofBits a) (SReg.ofBits b))
  | 0x02 => if b ≠ 0 ∨ f ≠ 0 then .error .fieldNotZero
            else requireDest (.pdbl (PReg.ofBits d) (PReg.ofBits a))
  | 0x03 => if f ≠ 0 then .error .fieldNotZero
            else requireDest (.padd (PReg.ofBits d) (PReg.ofBits a) (PReg.ofBits b))
  | 0x04 => if f ≠ 0 then .error .fieldNotZero
            else requireDest (.pmul (PReg.ofBits d) (SReg.ofBits a) (PReg.ofBits b))
  | 0x05 => if d ≠ 0 ∨ b ≠ 0 then .error .fieldNotZero
            else .ok (.pcomp (PReg.ofBits a) (PointFormat.ofBit f))
  | 0x06 => if a ≠ 0 ∨ b ≠ 0 then .error .fieldNotZero
            else requireDest (.pdec (PReg.ofBits d) (PointFormat.ofBit f))
  | _ => .error .reservedOpcode

/-- R69's `decode(w)`: the reserved bits are tested first, then the opcode's own conditions. -/
def decode (w : Word) : Except DecodeError Instr :=
  if res0Field w ≠ 0 ∨ res1Field w ≠ 0 ∨ res2Field w ≠ 0 ∨ res3Field w ≠ 0 then .error .reservedBit
  else decodeOp w

/-! ## Encode (R76) -/

/-- The word with the given fields and every reserved field 0: R63's diagram, most significant field first. -/
def pack (f : BitVec 1) (b a d : BitVec 2) (op : BitVec 8) : Word :=
  0#7 ++ f ++ 0#6 ++ b ++ 0#2 ++ a ++ 0#2 ++ d ++ op

/-- R76: `(F << 24) | (B << 16) | (A << 12) | (D << 8) | OP`, with unused fields 0. -/
def encode : Instr → Word
  | .sadd d a b => pack 0 b.bits a.bits d.bits 0x01
  | .pdbl d a => pack 0 0 a.bits d.bits 0x02
  | .padd d a b => pack 0 b.bits a.bits d.bits 0x03
  | .pmul d a b => pack 0 b.bits a.bits d.bits 0x04
  | .pcomp a f => pack f.bit 0 a.bits 0 0x05
  | .pdec d f => pack f.bit 0 0 d.bits 0x06

/-! ## The opcode table's numbering -/

/-- The command word of an opcode-table entry of `nbits` bits: every bit above `nbits` is 0.
A command is one whole 32-bit word (R60), so there are no bytes to lay out. -/
def tableWord (nbits w : Nat) : Word := BitVec.ofNat 32 (w % 2 ^ nbits)

/-- The instruction the decoder reads from an opcode-table word, none where it rejects the word. -/
def decodeTableWord (nbits w : Nat) : Option Instr :=
  match decode (tableWord nbits w) with
  | .ok i => some i
  | .error _ => none

end Sys2Proof
end

