-- ==== Sys2Proof/Config.lean ====
section
/-! DEFINITION. What is fixed for this hardware: the curve constants (R87, which R27 takes as definitions, not
state), the sizes of R6 and R40, the identity word (R19), and the one open parameter of the CORE that is a number, `BASE` (R6). -/

namespace Sys2Proof.Config

/-- The field prime p = 2^256 - 2^32 - 977 (R87). -/
def p : Nat := 0xFFFFFFFFFFFFFFFFFFFFFFFFFFFFFFFFFFFFFFFFFFFFFFFFFFFFFFFEFFFFFC2F

/-- The group order n (R87). -/
def n : Nat := 0xFFFFFFFFFFFFFFFFFFFFFFFFFFFFFFFEBAAEDCE6AF48A03BBFD25E8CD0364141

/-- A field element: an integer from 0 to p - 1, with addition, subtraction and multiplication modulo p (R88). -/
abbrev Fp := Fin p

/-- An affine pair of field elements (R17, R90).
The pair need not lie on the curve: that every register does is an invariant (R39), not part of the type. -/
structure CurvePoint where
  x : Fp
  y : Fp
deriving DecidableEq, Repr

/-- The curve coefficient a = 0 of R87. -/
def a : Fp := ⟨0, by decide⟩

/-- The curve coefficient b = 7 of R87. -/
def b : Fp := ⟨7, by decide⟩

/-- The cofactor h = 1 of R87. -/
def h : Nat := 1

/-- The base point G of R87. -/
def G : CurvePoint :=
  { x := ⟨0x79BE667EF9DCBBAC55A06295CE870B07029BFCDB2DCE28D959F2815B16F81798, by decide⟩
    y := ⟨0x483ADA7726A3C4655DA4FBFC0E1108A8FD17B448A68554199C47D08FFB10D4B8, by decide⟩ }

/-- The identity word "S2K1" that ID always reads (R19). -/
def idWord : Word := 0x53324B31#32

/-- The size of the register space in bytes (R6, R40). -/
def spaceBytes : Nat := 0x400

/-- The number of bytes of a compressed encoding (R6, R105). -/
def compressedLen : BitVec 7 := 33#7

/-- The number of bytes of an uncompressed encoding (R6, R105). -/
def uncompressedLen : BitVec 7 := 65#7

/-- OPEN (R6, R46): which 0x400-byte page of the host's address map the register space occupies.
It has no body, so no proof knows its value and a claim holds for every `BASE` (DESIGN CHOICE, safe: log entry 4). -/
opaque basePage : Nat

/-- `BASE`, the host byte address of offset 0x000: a multiple of 0x400 (R6). -/
def base : Nat := spaceBytes * basePage

end Sys2Proof.Config
end

