-- ==== Sys2Proof/Machine/Field.lean ====
section
/-! DEFINITION. Field arithmetic in GF(p): addition, subtraction and multiplication are those of `Fin p` (R88);
this file adds powers, the inverse (R89), negation (R91) and the square root (R109). -/

namespace Sys2Proof.Machine

open Sys2Proof.Config (Fp p)

/-- b^e mod m by squaring, on an exponent of at most `fuel` bits. -/
def powModAux : Nat → Nat → Nat → Nat → Nat
  | 0, _, _, m => 1 % m
  | fuel + 1, b, e, m =>
    let r := powModAux fuel b (e / 2) m
    if e % 2 = 1 then r * r % m * b % m else r * r % m

/-- b^e mod m.
Irreducible, so that no proof unfolds a 256-bit exponent by accident: `powMod_eq` gives its value. -/
@[irreducible] def powMod (b e m : Nat) : Nat := powModAux (e.log2 + 1) b e m

/-- z^e in GF(p). -/
def fpow (z : Fp) (e : Nat) : Fp := ⟨powMod z.val e p % p, Nat.mod_lt _ (by decide)⟩

/-- -z mod p (R91). -/
def fneg (z : Fp) : Fp := ⟨(p - z.val) % p, Nat.mod_lt _ (by decide)⟩

/-- `inv_p(z)` = z^(p-2) mod p (R89). No rule applies it to 0. -/
def finv (z : Fp) : Fp := fpow z (p - 2)

/-- `sqrt_p(α)` = α^((p+1)/4) mod p (R109): a square root of α exactly when its square is α. -/
def fsqrt (α : Fp) : Fp := fpow α ((p + 1) / 4)

/-- 2·z. -/
def fdouble (z : Fp) : Fp := z + z

/-- 3·z. -/
def ftriple (z : Fp) : Fp := z + z + z

end Sys2Proof.Machine
end

