-- ==== Sys2Proof/Machine/Group.lean ====
section
/-! DEFINITION. The curve and its group law: the curve equation and the group elements (R87, R90), negation (R91),
addition (R92), doubling (R93) and scalar multiplication (R95, R97). -/

namespace Sys2Proof.Machine

open Sys2Proof.Config (Fp CurvePoint)

/-- A group element: the point at infinity O, or an affine point (R90). -/
inductive GroupElt where
  | infinity
  | affine (P : CurvePoint)
deriving DecidableEq, Repr

/-- The right side of the curve equation, x³ + 7 in GF(p) (R90, R111). -/
def curveRhs (x : Fp) : Fp := x * x * x + Config.b

/-- Whether (x, y) satisfies y² ≡ x³ + 7 (mod p) (R90). -/
def onCurve (P : CurvePoint) : Bool := P.y * P.y == curveRhs P.x

/-- The elements of the group E: O and the points on the curve (R90). -/
def GroupElt.inE : GroupElt → Bool
  | .infinity => true
  | .affine P => onCurve P

/-- -P (R91). -/
def GroupElt.neg : GroupElt → GroupElt
  | .infinity => .infinity
  | .affine P => .affine { x := P.x, y := fneg P.y }

/-- The third point of the line of slope `l` through (x1, y1) and a point of abscissa x2, reflected: the last two
lines of R92 and R93. -/
def lineThird (l x1 y1 x2 : Fp) : GroupElt :=
  let x3 := l * l - x1 - x2
  .affine { x := x3, y := l * (x1 - x3) - y1 }

/-- `dbl(P)` (R93). -/
def GroupElt.dbl : GroupElt → GroupElt
  | .infinity => .infinity
  | .affine P =>
    if P.y.val = 0 then .infinity
    else lineThird (ftriple (P.x * P.x) * finv (fdouble P.y)) P.x P.y P.x

/-- `add(P, Q)` (R92). -/
def GroupElt.add : GroupElt → GroupElt → GroupElt
  | .infinity, Q => Q
  | P, .infinity => P
  | .affine P, .affine Q =>
    if P.x = Q.x then
      if (P.y + Q.y).val = 0 then .infinity else GroupElt.dbl (.affine P)
    else lineThird ((Q.y - P.y) * finv (Q.x - P.x)) P.x P.y Q.x

/-- `mul(k, P)` exactly as R95 defines it: k·P by repeated addition. -/
def GroupElt.mulRec : Nat → GroupElt → GroupElt
  | 0, _ => .infinity
  | k + 1, P => (GroupElt.mulRec k P).add P

/-- Doubling and adding over the bits of k, on a k of at most `fuel` bits. -/
def GroupElt.mulAux : Nat → Nat → GroupElt → GroupElt
  | 0, _, _ => .infinity
  | fuel + 1, k, P =>
    let D := (GroupElt.mulAux fuel (k / 2) P).dbl
    if k % 2 = 1 then D.add P else D

/-- k·P by doubling and adding, which R97 allows: only the value is architectural.
That it is R95's `mulRec` on every element of E is a statement of its own (DEDUCED, log entry 11). -/
def GroupElt.mul (k : Nat) (P : GroupElt) : GroupElt := GroupElt.mulAux (k.log2 + 1) k P

end Sys2Proof.Machine
end

