-- ==== Sys2Proof/Machine/State.lean ====
section
/-! DEFINITION. The state of the CORE as plain data: every register and hidden latch of 10_state.md, and beside them
the model's own fields for the outside world (what is still to arrive, and what the host's reads have returned). -/

namespace Sys2Proof.Machine

open Sys2Proof.Config (CurvePoint)

/-- What a point register holds: EMPTY or an affine point, never O (R17). -/
inductive PointReg where
  | empty
  | point (P : CurvePoint)
deriving DecidableEq, Repr

/-- The errors a command can raise (R116). -/
inductive CmdError where
  | invalidInputLength
  | invalidPoint
  | pointAtInfinity
  | invalidCommand
deriving DecidableEq, Repr

/-- The width of a host access (R44). -/
inductive AccessWidth where
  | bits8 | bits16 | bits32 | bits64
deriving DecidableEq, Repr

/-- A read, or a write of a word (R45).
The data of a write that is not 32 bits wide is not kept: such an access is a host fault whatever its data (R44).
DESIGN CHOICE, safe: log entry 13. -/
inductive AccessKind where
  | read
  | write (w : Word)
deriving DecidableEq, Repr

/-- One host access: its byte offset from BASE, negative below BASE (R9, R45), its width and its kind. -/
structure Access where
  off : Int
  width : AccessWidth
  kind : AccessKind
deriving DecidableEq, Repr

/-- What can happen next, as the outside world and the two agents take turns (R15, R53, R137). -/
inductive Event where
  /-- The host makes one access (R45). -/
  | host (a : Access)
  /-- The core takes its turn: a pending command completes here (R31). -/
  | core
  /-- The platform asserts reset (R137).
  `lost` is a host access that coincides with it, which has no effect (R139).
  DESIGN CHOICE, safe: log entry 7. -/
  | reset (lost : Option Access)
deriving DecidableEq, Repr

/-- The register a word offset of the register space reaches (R46). -/
inductive Reg where
  | id | cmd | status | ctrl | elen | lastcmd
  /-- Word `j` of a scalar window (R47). -/
  | scalar (r : SReg) (j : Fin 8)
  /-- Word `j` of the EBUF window (R48). -/
  | ebuf (j : Fin 17)
  /-- A reserved offset (R26). -/
  | reserved
deriving DecidableEq, Repr

/-- The whole state. P0 and ID are hardwired (R18, R19), CMD stores nothing (R20), and STATUS.IRQ and the irq
output are computed (R35), so none of them is a field. -/
structure State where
  /-- S0..S3 (R16). -/
  s0 : Scalar
  s1 : Scalar
  s2 : Scalar
  s3 : Scalar
  /-- P1..P3 (R17). -/
  p1 : PointReg
  p2 : PointReg
  p3 : PointReg
  /-- EBUF[0..64] (R25). -/
  ebuf : Vector Byte 65
  /-- ELEN[6:0] (R23). -/
  elen : BitVec 7
  /-- STATUS.BUSY (R21). -/
  busy : Bool
  /-- STATUS.DONE (R21). -/
  done : Bool
  /-- STATUS.ERR (R21). -/
  err : Bool
  /-- STATUS.OVR (R21). -/
  ovr : Bool
  /-- STATUS.ERRCODE (R21). -/
  errcode : BitVec 4
  /-- CTRL.IE (R22). -/
  ie : Bool
  /-- LASTCMD (R24). -/
  lastcmd : Word
  /-- The hidden command latch CMDQ (R28). -/
  cmdq : Option Word
  /-- The model's own field: the events still to come, in the order they reach the CORE (R53).
  It stands for the outside world and for LATENCY (R6): a claim holds for every list here.
  DESIGN CHOICE, safe: log entries 1, 6 and 16. -/
  inbox : List Event
  /-- The model's own field: the words the host's reads have returned, the latest first (R45).
  DESIGN CHOICE, safe: log entry 5. -/
  hostReads : List Word
deriving DecidableEq, Repr

/-- The reasons a step stops. Both are errors of the host program, which R44 says a model treats as a fault. -/
inductive Fault where
  /-- A host access that reaches the register space and is not 32 bits wide (R44).
  Raised by the step that takes the access; safe, since the spec gives the access no defined effect. -/
  | accessWidth
  /-- A 32-bit host access that reaches the register space at an offset that is not a multiple of 4 (R44).
  Raised by the step that takes the access; safe, since the spec gives the access no defined effect. -/
  | accessAlignment
deriving DecidableEq, Repr

/-- The reasons the model has no meaning for an instruction. -/
inductive Refusal where
  /-- The instruction has no meaning in the model yet.
  Raised by no arm of `exec`: every command is modelled; safe. -/
  | notModelled (mnemonic : String)
deriving DecidableEq, Repr

/-- The reset state (R138): every register at the value the spec gives, nothing pending.
The last two fields are the model's own: no event is waiting and no read has been made (DESIGN CHOICE, log entries
1 and 5). -/
def State.reset : State where
  s0 := 0
  s1 := 0
  s2 := 0
  s3 := 0
  p1 := .empty
  p2 := .empty
  p3 := .empty
  ebuf := Vector.replicate 65 0
  elen := 0
  busy := false
  done := false
  err := false
  ovr := false
  errcode := 0
  ie := false
  lastcmd := 0
  cmdq := none
  inbox := []
  hostReads := []

end Sys2Proof.Machine
end

