-- ==== Sys2Proof/Machine/Operands.lean ====
section
/-! DEFINITION. The operand forms of R64: reading and writing a scalar or point register by its index, the
encoded length a format requires, and the big-endian byte strings of R8. -/

namespace Sys2Proof.Machine

open Sys2Proof.Config (CurvePoint)

/-- `S[i]` (R9). -/
def State.readS (s : State) : SReg → Scalar
  | .s0 => s.s0
  | .s1 => s.s1
  | .s2 => s.s2
  | .s3 => s.s3

/-- `S[i] <- v` (R9). -/
def State.writeS (s : State) (i : SReg) (v : Scalar) : State :=
  match i with
  | .s0 => { s with s0 := v }
  | .s1 => { s with s1 := v }
  | .s2 => { s with s2 := v }
  | .s3 => { s with s3 := v }

/-- `P[i]` (R9). P0 is hardwired to G (R18). -/
def State.readP (s : State) : PReg → PointReg
  | .p0 => .point Config.G
  | .p1 => s.p1
  | .p2 => s.p2
  | .p3 => s.p3

/-- `P[i] <- Q` (R9). P0 never changes (R18). -/
def State.writeP (s : State) (i : PReg) (Q : CurvePoint) : State :=
  match i with
  | .p0 => s
  | .p1 => { s with p1 := .point Q }
  | .p2 => { s with p2 := .point Q }
  | .p3 => { s with p3 := .point Q }

/-- The ELEN value a format requires (R105, R111). -/
def formatLen : PointFormat → BitVec 7
  | .compressed => Config.compressedLen
  | .uncompressed => Config.uncompressedLen

/-- `EBUF[k]`; a byte lane past EBUF[64] reads 0 (R48). -/
def State.ebufByte (s : State) (k : Nat) : Byte := if h : k < 65 then s.ebuf[k] else 0

/-- `EBUF[i..i+len-1]` as a byte string (R8). -/
def State.ebufBytes (s : State) (i len : Nat) : List Byte := (s.ebuf.toList.drop i).take len

/-- `be2int`: a byte string read as a big-endian number (R8). -/
def be2int (l : List Byte) : Nat := l.foldl (fun acc b => acc * 256 + b.toNat) 0

/-- `int2be_N(v)`: the N-byte big-endian string of v (R8). -/
def int2be : Nat → Nat → List Byte
  | 0, _ => []
  | n + 1, v => int2be n (v / 256) ++ [BitVec.ofNat 8 v]

/-- `int2be_N` has N bytes (R8). -/
theorem length_int2be (n v : Nat) : (int2be n v).length = n := by
  induction n generalizing v with
  | zero => rfl
  | succ n ih => simp [int2be, ih]

end Sys2Proof.Machine
end

