-- ==== Sys2Proof/Machine/Flags.lean ====
section
/-! DEFINITION. Every flag computation of the CORE: the error codes of R116, the interrupt level of R35, the words
that STATUS, CTRL and ELEN read as, and the changes to STATUS at issue (R30), completion (R32) and CLRSTAT (R22). -/

namespace Sys2Proof.Machine

/-- The ERRCODE value of an error (R116). -/
def CmdError.code : CmdError → BitVec 4
  | .invalidInputLength => 1
  | .invalidPoint => 2
  | .pointAtInfinity => 3
  | .invalidCommand => 4

/-- The interrupt output, `CTRL.IE AND STATUS.DONE` (R35). -/
def State.irq (s : State) : Bool := s.ie && s.done

/-- The word STATUS reads as (R21), most significant field first. -/
def State.statusWord (s : State) : Word :=
  0#23 ++ BitVec.ofBool s.irq ++ s.errcode ++ BitVec.ofBool s.ovr ++ BitVec.ofBool s.err
    ++ BitVec.ofBool s.done ++ BitVec.ofBool s.busy

/-- The word CTRL reads as: IE in bit 0 and 0 elsewhere (R22). -/
def State.ctrlWord (s : State) : Word := 0#31 ++ BitVec.ofBool s.ie

/-- The word ELEN reads as: LEN in bits 6:0 and 0 elsewhere (R23). -/
def State.elenWord (s : State) : Word := 0#25 ++ s.elen

/-- The command word a completion records: the latched word (R32).
Where nothing is latched no completion is enabled (R31), and LASTCMD keeps its value.
DESIGN CHOICE, safe: log entry 8. -/
def State.pendingWord (s : State) : Word := s.cmdq.getD s.lastcmd

/-- The status update at completion with ERRCODE `code`, 0 for success (R32). -/
def State.retire (s : State) (code : BitVec 4) : State :=
  { s with
    err := code != 0
    errcode := code
    lastcmd := s.pendingWord
    cmdq := none
    busy := false
    done := true }

/-- The issue step's whole effect: the latch and the status bits (R30). -/
def State.issue (s : State) (w : Word) : State :=
  { s with
    cmdq := some w
    busy := true
    done := false
    err := false
    errcode := 0 }

/-- The CLRSTAT action (R22). -/
def State.clrStat (s : State) : State :=
  { s with
    done := false
    err := false
    ovr := false
    errcode := 0 }

end Sys2Proof.Machine
end

