-- ==== Sys2Proof/Machine/Ops.lean ====
section
/-! DEFINITION. The named operations over the registers: how a command ends, with its error or its results (R10,
R32, R115, R123), the SCRUB action, the register map and its reads and writes, a host access, and reset. -/

namespace Sys2Proof.Machine

/-! ## How a command ends -/

/-- Raising an error, the CORE's form of taking an exception (R115, R123): the completion that records the error
(R119) and writes no destination. There is no handler and no return (R124). -/
def State.raise (s : State) (e : CmdError) : State := s.retire e.code

/-- The completion of a command whose pseudocode, run on `s`, ended in `r`: an error, or the state `t` that holds
the destination writes, committed together with the status update (R10, R32). -/
def State.complete (s : State) (r : Except CmdError State) : State :=
  match r with
  | .error e => s.raise e
  | .ok t => t.retire 0

/-! ## CTRL actions -/

/-- The SCRUB action (R22): S0..S3, EBUF and ELEN to 0, and P1..P3 to EMPTY. -/
def State.scrub (s : State) : State :=
  { s with
    s0 := 0
    s1 := 0
    s2 := 0
    s3 := 0
    p1 := .empty
    p2 := .empty
    p3 := .empty
    ebuf := Vector.replicate 65 0
    elen := 0 }

/-- An idle write of CTRL: IE, then the actions whose bits are 1 (R22). -/
def State.writeCtrl (s : State) (w : Word) : State :=
  let s := { s with ie := w.getLsbD 0 }
  let s := if w.getLsbD 1 then s.clrStat else s
  if w.getLsbD 2 then s.scrub else s

/-! ## Windows -/

/-- The scalar register a window index names (R47). -/
def SReg.ofWindow (i : Nat) : SReg :=
  match i with
  | 0 => .s0
  | 1 => .s1
  | 2 => .s2
  | _ => .s3

/-- Word `j` of a scalar: bits 255 - 32j down to 224 - 32j (R47). -/
def scalarWord (v : Scalar) (j : Fin 8) : Word := v.extractLsb' (224 - 32 * j.val) 32

/-- A scalar with word `j` replaced and every other bit kept (R47). -/
def setScalarWord (v : Scalar) (j : Fin 8) (w : Word) : Scalar :=
  let sh := 224 - 32 * j.val
  (v &&& ~~~((0xFFFFFFFF#32).setWidth 256 <<< sh)) ||| (w.setWidth 256 <<< sh)

/-- Byte `k` of a word as the byte lanes number it: byte 0 holds bits 31:24 (R42). -/
def laneByte (w : Word) (k : Nat) : Byte := w.extractLsb' (24 - 8 * k) 8

/-- Word `j` of the EBUF window (R48). The lanes of word 16 past EBUF[64] read 0. -/
def State.ebufWord (s : State) (j : Fin 17) : Word :=
  s.ebufByte (4 * j.val) ++ s.ebufByte (4 * j.val + 1) ++ s.ebufByte (4 * j.val + 2)
    ++ s.ebufByte (4 * j.val + 3)

/-- A buffer with the bytes that word `j` holds replaced, and every other byte kept (R48).
Irreducible, so that comparing two states does not unfold 65 bytes: `getElem_setBufferWord` says what it holds. -/
@[irreducible] def setBufferWord (e : Vector Byte 65) (j : Fin 17) (w : Word) : Vector Byte 65 :=
  Vector.ofFn fun i => if i.val / 4 = j.val then laneByte w (i.val % 4) else e[i]

/-- An idle write of word `j` of the EBUF window (R48). -/
def State.setEbufWord (s : State) (j : Fin 17) (w : Word) : State :=
  { s with ebuf := setBufferWord s.ebuf j w }

/-! ## The register map and the access primitives -/

/-- The register at a word offset (R46). Every offset R46 does not assign is reserved (R26). -/
def regAt (off : Nat) : Reg :=
  if off = 0x000 then .id
  else if off = 0x004 then .cmd
  else if off = 0x008 then .status
  else if off = 0x00C then .ctrl
  else if off = 0x010 then .elen
  else if off = 0x014 then .lastcmd
  else if 0x100 ≤ off ∧ off < 0x180 then
    .scalar (SReg.ofWindow ((off - 0x100) / 0x20)) ⟨off % 0x20 / 4, by omega⟩
  else if h : 0x200 ≤ off ∧ off < 0x244 then .ebuf ⟨(off - 0x200) / 4, by omega⟩
  else .reserved

/-- The word a register reads as (R19 to R26, R47, R48). A read changes nothing (R34). -/
def State.readReg (s : State) : Reg → Word
  | .id => Config.idWord
  | .cmd => 0
  | .status => s.statusWord
  | .ctrl => s.ctrlWord
  | .elen => s.elenWord
  | .lastcmd => s.lastcmd
  | .scalar r j => scalarWord (s.readS r) j
  | .ebuf j => s.ebufWord j
  | .reserved => 0

/-- The effect of a write to a register when the CORE is idle (R19 to R26, R30, R47, R48). -/
def State.writeReg (s : State) (r : Reg) (w : Word) : State :=
  match r with
  | .id => s
  | .cmd => s.issue w
  | .status => s
  | .ctrl => s.writeCtrl w
  | .elen => { s with elen := w.extractLsb' 0 7 }
  | .lastcmd => s
  | .scalar r j => s.writeS r (setScalarWord (s.readS r) j w)
  | .ebuf j => s.setEbufWord j w
  | .reserved => s

/-- `RegRead(off)` (R45). -/
def State.regRead (s : State) (off : Nat) : Word := s.readReg (regAt off)

/-- `RegWrite(off, w)` (R45): while BUSY = 1 the write is ignored and sets OVR (R33). -/
def State.regWrite (s : State) (off : Nat) (w : Word) : State :=
  if s.busy then { s with ovr := true } else s.writeReg (regAt off) w

/-! ## Host accesses -/

/-- The number of bytes an access covers (R44). -/
def AccessWidth.bytes : AccessWidth → Nat
  | .bits8 => 1
  | .bits16 => 2
  | .bits32 => 4
  | .bits64 => 8

/-- Whether an access covers a byte of the register space, offsets 0x000 to 0x3FF (R40).
One that does not never reaches the CORE (R45).
That one lying partly outside does reach it is a DESIGN CHOICE, safe: log entry 3. -/
def Access.reaches (a : Access) : Bool :=
  decide (0 < a.off + a.width.bytes) && decide (a.off < Config.spaceBytes)

/-- One host access, one step of the host agent (R45): a defined access is 32 bits wide at a multiple of 4, and any
other that reaches the CORE is a fault of the host program (R44). -/
def State.hostAccess (s : State) (a : Access) : Host.Outcome State Fault Refusal :=
  if a.reaches then
    if a.width = .bits32 then
      if a.off % 4 = 0 then
        match a.kind with
        | .read => .next { s with hostReads := s.regRead a.off.toNat :: s.hostReads }
        | .write w => .next (s.regWrite a.off.toNat w)
      else .fault .accessAlignment
    else .fault .accessWidth
  else .next s

/-- The host makes an access at a host byte address: it reaches the CORE after everything already on its way, at
its offset from BASE (R6, R53, R54). -/
def State.arrive (s : State) (addr : Nat) (width : AccessWidth) (kind : AccessKind) : State :=
  { s with inbox := s.inbox ++ [.host { off := (addr : Int) - Config.base, width := width, kind := kind }] }

/-! ## Reset -/

/-- The platform's reset (R137, R139): every register and latch takes its reset value, a pending command included.
What is still to arrive and what the host has read lie outside the CORE and stay. -/
def State.takeReset (s : State) : State :=
  { State.reset with inbox := s.inbox, hostReads := s.hostReads }

end Sys2Proof.Machine
end

