-- ==== Sys2Proof/Machine/PointArith.lean ====
section
/-! DEFINITION. The point-arithmetic family: PDBL (R99), PADD (R101) and PMUL (R103), with their common checks in
the order of R98. -/

namespace Sys2Proof.Machine

open Sys2Proof.Config (CurvePoint)

/-- A point register as a source: EMPTY raises InvalidPoint (R98, R117). -/
def State.sourceP (s : State) (i : PReg) : Except CmdError CurvePoint :=
  match s.readP i with
  | .empty => .error .invalidPoint
  | .point P => .ok P

/-- A group element as the result for P[d]: O raises PointAtInfinity and writes nothing (R98). -/
def State.resultP (s : State) (d : PReg) (R : GroupElt) : Except CmdError State :=
  match R with
  | .infinity => .error .pointAtInfinity
  | .affine P => .ok (s.writeP d P)

/-- Runs `body` unless the destination is P0, which is an illegal form and raises InvalidCommand before any other
check (R18, R98).
No word decodes to such a command (R71): DEDUCED, safe, log entry 9. -/
def withDest (d : PReg) (body : Except CmdError State) : Except CmdError State :=
  if d.isDest then body else .error .invalidCommand

/-- PDBL's pseudocode (R99). -/
def pdblBody (d a : PReg) (s : State) : Except CmdError State :=
  match s.sourceP a with
  | .error e => .error e
  | .ok Q => s.resultP d (GroupElt.dbl (.affine Q))

/-- PADD's pseudocode (R101): A is tested before B. -/
def paddBody (d a b : PReg) (s : State) : Except CmdError State :=
  match s.sourceP a with
  | .error e => .error e
  | .ok Q1 =>
    match s.sourceP b with
    | .error e => .error e
    | .ok Q2 => s.resultP d (GroupElt.add (.affine Q1) (.affine Q2))

/-- PMUL's pseudocode (R103): the scalar is any 256-bit value. -/
def pmulBody (d : PReg) (a : SReg) (b : PReg) (s : State) : Except CmdError State :=
  let k := (s.readS a).toNat
  match s.sourceP b with
  | .error e => .error e
  | .ok Q => s.resultP d (GroupElt.mul k (.affine Q))

/-- PDBL Pd, Pa (R99). -/
def execPdbl (d a : PReg) (s : State) : Host.Outcome State Fault Refusal :=
  .next (s.complete (withDest d (pdblBody d a s)))

/-- PADD Pd, Pa, Pb (R101). -/
def execPadd (d a b : PReg) (s : State) : Host.Outcome State Fault Refusal :=
  .next (s.complete (withDest d (paddBody d a b s)))

/-- PMUL Pd, Sa, Pb (R103). -/
def execPmul (d : PReg) (a : SReg) (b : PReg) (s : State) : Host.Outcome State Fault Refusal :=
  .next (s.complete (withDest d (pmulBody d a b s)))

end Sys2Proof.Machine
end

