-- ==== Sys2Proof/Machine/PointEncoding.lean ====
section
/-! DEFINITION. The point-encoding family: PCOMP (R107) and PDEC (R111), over the two SEC1 encodings of R105. -/

namespace Sys2Proof.Machine

open Sys2Proof.Config (Fp CurvePoint p)

/-! ## PCOMP -/

/-- Byte 0 of an encoding (R105): 0x02 plus the parity of y (R106), or 0x04. -/
def sec1Lead (P : CurvePoint) : PointFormat → Byte
  | .compressed => BitVec.ofNat 8 (0x02 + P.y.val % 2)
  | .uncompressed => 0x04

/-- E[33..64] of R107: zeros in the compressed form, int2be_32(y) in the uncompressed one. -/
def sec1Tail (P : CurvePoint) : PointFormat → List Byte
  | .compressed => List.replicate 32 0
  | .uncompressed => int2be 32 P.y.val

/-- A second coordinate's field has 32 bytes in either form. -/
theorem length_sec1Tail (P : CurvePoint) (f : PointFormat) : (sec1Tail P f).length = 32 := by
  cases f <;> simp [sec1Tail, length_int2be]

/-- The 65 bytes E[0..64] that PCOMP commits (R107).
Irreducible, so that comparing two states does not unfold 65 bytes: `toList_sec1Bytes` says what it holds. -/
@[irreducible] def sec1Bytes (P : CurvePoint) (f : PointFormat) : Vector Byte 65 :=
  ⟨(sec1Lead P f :: (int2be 32 P.x.val ++ sec1Tail P f)).toArray, by
    simp [length_int2be, length_sec1Tail]⟩

/-- PCOMP's pseudocode (R107). -/
def pcompBody (a : PReg) (f : PointFormat) (s : State) : Except CmdError State :=
  match s.sourceP a with
  | .error e => .error e
  | .ok Q => .ok { s with ebuf := sec1Bytes Q f, elen := formatLen f }

/-- PCOMP Pa, C | U (R107). -/
def execPcomp (a : PReg) (f : PointFormat) (s : State) : Host.Outcome State Fault Refusal :=
  .next (s.complete (pcompBody a f s))

/-! ## PDEC -/

/-- A coordinate read from EBUF: a value of p or more is InvalidPoint (R111). -/
def coordinate (v : Nat) : Except CmdError Fp :=
  if h : v < p then .ok ⟨v, h⟩ else .error .invalidPoint

/-- PDEC's compressed branch after the length check (R111): prefix, range, then curve (R110). -/
def decodeCompressed (s : State) : Except CmdError CurvePoint :=
  let pre := s.ebufByte 0
  if pre ≠ 0x02 ∧ pre ≠ 0x03 then .error .invalidPoint
  else
    match coordinate (be2int (s.ebufBytes 1 32)) with
    | .error e => .error e
    | .ok x =>
      let α := curveRhs x
      let β := fsqrt α
      if β * β ≠ α then .error .invalidPoint
      else if β.val % 2 = pre.toNat - 0x02 then .ok { x := x, y := β }
      else .ok { x := x, y := fneg β }

/-- PDEC's uncompressed branch after the length check (R111): prefix, range, then curve (R110). -/
def decodeUncompressed (s : State) : Except CmdError CurvePoint :=
  if s.ebufByte 0 ≠ 0x04 then .error .invalidPoint
  else
    match coordinate (be2int (s.ebufBytes 1 32)), coordinate (be2int (s.ebufBytes 33 32)) with
    | .ok x, .ok y =>
      if y * y ≠ curveRhs x then .error .invalidPoint else .ok { x := x, y := y }
    | _, _ => .error .invalidPoint

/-- PDEC's pseudocode (R111): the length comes before any arithmetic (R110). -/
def pdecBody (d : PReg) (f : PointFormat) (s : State) : Except CmdError State :=
  if s.elen ≠ formatLen f then .error .invalidInputLength
  else
    match (match f with
      | .compressed => decodeCompressed s
      | .uncompressed => decodeUncompressed s) with
    | .error e => .error e
    | .ok Q => .ok (s.writeP d Q)

/-- PDEC Pd, C | U (R111). -/
def execPdec (d : PReg) (f : PointFormat) (s : State) : Host.Outcome State Fault Refusal :=
  .next (s.complete (withDest d (pdecBody d f s)))

end Sys2Proof.Machine
end

