-- ==== Sys2Proof/Machine/ScalarAdd.lean ====
section
/-! DEFINITION. The scalar family: SADD (R78, R79). -/

namespace Sys2Proof.Machine

/-- (x + y) mod n of two unreduced scalars: the sum is formed exactly and fully reduced (R78). -/
def addModN (x y : Scalar) : Nat := (x.toNat + y.toNat) % Config.n

/-- SADD's pseudocode (R79): a zero result raises PointAtInfinity. -/
def saddBody (d a b : SReg) (s : State) : Except CmdError State :=
  let r := addModN (s.readS a) (s.readS b)
  if r = 0 then .error .pointAtInfinity else .ok (s.writeS d (BitVec.ofNat 256 r))

/-- SADD Sd, Sa, Sb (R79). -/
def execSadd (d a b : SReg) (s : State) : Host.Outcome State Fault Refusal :=
  .next (s.complete (saddBody d a b s))

end Sys2Proof.Machine
end

