-- ==== Sys2Proof/Machine/Step.lean ====
section
/-! DEFINITION. One step of the machine: the next event's agent moves (R15, R53). -/

namespace Sys2Proof.Machine

/-- The completion of the latched word w (R31): decode it, run it, and update the status.
A word that does not decode raises InvalidCommand and touches nothing else (R69, R71). -/
def completion (w : Word) (s : State) : Host.Outcome State Fault Refusal :=
  match decode w with
  | .ok i => exec i s
  | .error _ => .next (s.raise .invalidCommand)

/-- The core's turn: the completion of the pending command, its one enabled step; nothing when none is pending (R31).
That a turn with nothing pending changes no register is a DESIGN CHOICE, safe: log entry 2. -/
def coreTurn (s : State) : Host.Outcome State Fault Refusal :=
  match s.cmdq with
  | some w => completion w s
  | none => .next s

/-- One step: the agent whose event comes next moves, and with no event left the core does.
So a pending command completes once the listed events have passed, however many stand before it (R31, R149). -/
def step (s : State) : Host.Outcome State Fault Refusal :=
  match s.inbox with
  | [] => coreTurn s
  | .core :: rest => coreTurn { s with inbox := rest }
  | .host a :: rest => State.hostAccess { s with inbox := rest } a
  | .reset _ :: rest => .next (State.takeReset { s with inbox := rest })

/-- The state in which the command of an opcode-table word has been issued (R30) and the core moves next, so that
the very next step runs it.
It stands for the host's CMD write: DESIGN CHOICE, safe, log entry 16. -/
def State.withFetchWord (s : State) (nbits w : Nat) : State :=
  { s.issue (tableWord nbits w) with inbox := .core :: s.inbox }

end Sys2Proof.Machine
end

