-- ==== Sys2Proof/Machine/Assembler.lean ====
section
/-! DEFINITION. The assembler and disassembler of R73, R74 and R77, on one line of text at a time. -/

namespace Sys2Proof.Machine

/-- A line of assembler text, as its characters. -/
abbrev AsmText := List Char

/-- Why the assembler refuses a line (R73). -/
inductive AsmError where
  /-- The mnemonic is none of R73's six, nor PMULG (R74). -/
  | unknownMnemonic
  /-- An operand is missing, extra, or of the wrong file. -/
  | badOperands
  /-- A point destination is P0 or G. -/
  | destinationP0
deriving DecidableEq, Repr

/-! ## Printing -/

/-- A scalar register's name (R73). -/
def SReg.asm : SReg → AsmText
  | .s0 => ['S', '0'] | .s1 => ['S', '1'] | .s2 => ['S', '2'] | .s3 => ['S', '3']

/-- A point register's name (R73). -/
def PReg.asm : PReg → AsmText
  | .p0 => ['P', '0'] | .p1 => ['P', '1'] | .p2 => ['P', '2'] | .p3 => ['P', '3']

/-- A format's letter (R73). -/
def PointFormat.asm : PointFormat → AsmText
  | .compressed => ['C'] | .uncompressed => ['U']

/-- The mnemonic, a space, then the operands separated by commas (R73). -/
def asmLine (mnemonic : String) (operands : List AsmText) : AsmText :=
  mnemonic.toList ++ ' ' :: List.intercalate [',', ' '] operands

/-- A command as R73 writes it.
`PMULG Pd, Sa` and `PMUL Pd, Sa, P0` are one word (R74): that this prints the second for both, so that R77's same line
comes back for PMULG only as its expansion, is a DESIGN CHOICE, unsafe: log entry 15. -/
def Instr.asm : Instr → AsmText
  | .sadd d a b => asmLine "SADD" [SReg.asm d, SReg.asm a, SReg.asm b]
  | .pdbl d a => asmLine "PDBL" [PReg.asm d, PReg.asm a]
  | .padd d a b => asmLine "PADD" [PReg.asm d, PReg.asm a, PReg.asm b]
  | .pmul d a b => asmLine "PMUL" [PReg.asm d, SReg.asm a, PReg.asm b]
  | .pcomp a f => asmLine "PCOMP" [PReg.asm a, PointFormat.asm f]
  | .pdec d f => asmLine "PDEC" [PReg.asm d, PointFormat.asm f]

/-- One hexadecimal digit, in capitals. -/
def hexDigit (b : BitVec 4) : Char :=
  if b.toNat < 10 then Char.ofNat (48 + b.toNat) else Char.ofNat (55 + b.toNat)

/-- `.word 0xXXXXXXXX` (R77). -/
def wordLine (w : Word) : AsmText :=
  ".word 0x".toList ++ (List.range 8).map fun k => hexDigit (w.extractLsb' (28 - 4 * k) 4)

/-- The disassembler: a command's line, or `.word` for a word that raises InvalidCommand (R77). -/
def disassemble (w : Word) : AsmText :=
  match decode w with
  | .ok i => Instr.asm i
  | .error _ => wordLine w

/-! ## Reading -/

/-- A text without its comment: `;` starts one (R73). -/
def dropComment (t : AsmText) : AsmText := t.takeWhile (· ≠ ';')

/-- A text without the spaces at its two ends. -/
def trimText (t : AsmText) : AsmText :=
  ((t.dropWhile (· = ' ')).reverse.dropWhile (· = ' ')).reverse

/-- The texts between commas. -/
def splitCommas : AsmText → List AsmText
  | [] => [[]]
  | c :: rest =>
    if c = ',' then [] :: splitCommas rest
    else
      match splitCommas rest with
      | [] => [[c]]
      | t :: ts => (c :: t) :: ts

/-- A scalar register operand. -/
def readSReg : AsmText → Option SReg
  | ['S', '0'] => some .s0
  | ['S', '1'] => some .s1
  | ['S', '2'] => some .s2
  | ['S', '3'] => some .s3
  | _ => none

/-- A point register operand; `G` is an alias of P0 (R73). -/
def readPReg : AsmText → Option PReg
  | ['P', '0'] => some .p0
  | ['P', '1'] => some .p1
  | ['P', '2'] => some .p2
  | ['P', '3'] => some .p3
  | ['G'] => some .p0
  | _ => none

/-- A format operand (R73). -/
def readFormat : AsmText → Option PointFormat
  | ['C'] => some .compressed
  | ['U'] => some .uncompressed
  | _ => none

/-- The command a mnemonic and its operands name, before the destination check. -/
def readCommand (mnemonic : String) (operands : List AsmText) : Except AsmError Instr :=
  let found (i : Option Instr) : Except AsmError Instr :=
    match i with
    | some i => .ok i
    | none => .error .badOperands
  match mnemonic, operands with
  | "SADD", [d, a, b] => found (do return .sadd (← readSReg d) (← readSReg a) (← readSReg b))
  | "PDBL", [d, a] => found (do return .pdbl (← readPReg d) (← readPReg a))
  | "PADD", [d, a, b] => found (do return .padd (← readPReg d) (← readPReg a) (← readPReg b))
  | "PMUL", [d, a, b] => found (do return .pmul (← readPReg d) (← readSReg a) (← readPReg b))
  | "PMULG", [d, a] => found (do return .pmulg (← readPReg d) (← readSReg a))
  | "PCOMP", [a, f] => found (do return .pcomp (← readPReg a) (← readFormat f))
  | "PDEC", [d, f] => found (do return .pdec (← readPReg d) (← readFormat f))
  | m, _ =>
    if m ∈ ["SADD", "PDBL", "PADD", "PMUL", "PMULG", "PCOMP", "PDEC"] then .error .badOperands
    else .error .unknownMnemonic

/-- The assembler: one line to one command (R73), mnemonics and register names in either case.
How it takes spaces and the case of C and U is a DESIGN CHOICE, unsafe: log entry 15. -/
def assemble (line : AsmText) : Except AsmError Instr :=
  let t := trimText ((dropComment line).map Char.toUpper)
  let m := t.takeWhile (· ≠ ' ')
  match readCommand (String.ofList m) ((splitCommas (t.drop m.length)).map trimText) with
  | .error e => .error e
  | .ok i => if i.wellFormed then .ok i else .error .destinationP0

/-- A line's command word (R76). -/
def assembleWord (line : AsmText) : Except AsmError Word := (assemble line).map encode

end Sys2Proof.Machine
end

