-- ==== Sys2Proof/Machine/HostNotation.lean ====
section
/-! DEFINITION. The host-program notation of R75: each line as the events it stands for. -/

namespace Sys2Proof.Machine

/-- `WR off, w` (R75). -/
def wr (off : Nat) (w : Word) : Event := .host { off := off, width := .bits32, kind := .write w }

/-- `RD off` (R75). -/
def rd (off : Nat) : Event := .host { off := off, width := .bits32, kind := .read }

/-- A command line: the write of its word to CMD (R75). -/
def command (i : Instr) : Event := wr 0x004 (encode i)

/-- `WAIT` for a command that completes after `polls` more reads of STATUS (R75): those reads return BUSY = 1, the
core completes, and the read after it returns BUSY = 0. LATENCY is what fixes `polls` (R6), so every value is a run.
DESIGN CHOICE, safe: log entry 17. -/
def wait (polls : Nat) : List Event := List.replicate polls (rd 0x008) ++ [.core, rd 0x008]

/-- The offset of a scalar register's window (R47). -/
def windowOf : SReg → Nat
  | .s0 => 0x100
  | .s1 => 0x120
  | .s2 => 0x140
  | .s3 => 0x160

/-- `SETS Si, v`: eight writes, word 0 first (R75). -/
def sets (i : SReg) (v : Scalar) : List Event :=
  (List.finRange 8).map fun j => wr (windowOf i + 4 * j.val) (scalarWord v j)

/-- `GETS Si`: eight reads, word 0 first (R75). -/
def gets (i : SReg) : List Event := (List.range 8).map fun j => rd (windowOf i + 4 * j)

/-- A byte string as words, the first byte of each in bits 31:24 and unused lanes 0 (R48, R75). -/
def packWords : List Byte → List Word
  | [] => []
  | [a] => [a ++ 0#24]
  | [a, b] => [a ++ b ++ 0#16]
  | [a, b, c] => [a ++ b ++ c ++ 0#8]
  | a :: b :: c :: d :: rest => (a ++ b ++ c ++ d) :: packWords rest

/-- `SETE len, bytes`: the EBUF words that hold the bytes, word 0 first, then ELEN (R75). EBUF holds 65 bytes; that a
longer string goes on to the offsets after word 16 is a DESIGN CHOICE, safe: log entry 18. -/
def sete (len : BitVec 7) (bytes : List Byte) : List Event :=
  ((packWords bytes).zipIdx.map fun (w, j) => wr (0x200 + 4 * j) w) ++ [wr 0x010 (len.setWidth 32)]

/-- `GETE`: ELEN, then the EBUF words that hold bytes 0 to LEN - 1, for the LEN that ELEN reads as (R75).
ELEN can hold up to 127 and EBUF ends at word 16: that a LEN above 68 goes on to the reserved offsets from 0x244,
which read 0 (R26), is a DESIGN CHOICE, safe: log entry 18. -/
def gete (len : Nat) : List Event :=
  rd 0x010 :: (List.range ((len + 3) / 4)).map fun j => rd (0x200 + 4 * j)

end Sys2Proof.Machine
end

