-- ==== Sys2Proof/Safety.lean ====
section
/-! DEFINITION. The terms claims are stated in: the invariant of the machine (R28, R39 and the STATUS fields of
R21), and what a command's completion leaves unchanged, ends with, and writes (R32, R38, R119, R123). -/

namespace Sys2Proof.Machine

open Sys2Proof.Config (CurvePoint)

/-! ## The invariant -/

/-- EMPTY, or a point on the curve (R17, R39). -/
def PointReg.valid : PointReg → Bool
  | .empty => true
  | .point P => onCurve P

/-- What holds of every state the machine reaches, and every step keeps. -/
structure State.Inv (s : State) : Prop where
  /-- Every point register holds EMPTY or a point on the curve (R39). -/
  points : ∀ r, (s.readP r).valid = true
  /-- STATUS.BUSY = 1 if and only if CMDQ ≠ none (R28). -/
  busy_iff : s.busy = true ↔ s.cmdq ≠ none
  /-- ERRCODE holds only the values 0 to 4 (R21). -/
  errcode_le : s.errcode.toNat ≤ 4
  /-- ERR = 1 exactly when ERRCODE is the code of an error (R21, R32). -/
  err_iff : s.err = true ↔ s.errcode ≠ 0
  /-- ERR = 1 only with DONE = 1 (R21, R30, R32). -/
  err_done : s.err = true → s.done = true
  /-- A pending command has not completed: DONE = 0 while BUSY = 1 (R30, R32). -/
  busy_not_done : s.busy = true → s.done = false

/-! ## Frames -/

/-- S0..S3 are unchanged. -/
def SameScalars (s t : State) : Prop := ∀ r, t.readS r = s.readS r

/-- P0..P3 are unchanged. -/
def SamePoints (s t : State) : Prop := ∀ r, t.readP r = s.readP r

/-- EBUF and ELEN are unchanged. -/
def SameEncoding (s t : State) : Prop := t.ebuf = s.ebuf ∧ t.elen = s.elen

/-- The events still to come and the words already read are unchanged: a completion is no host access (R31). -/
def SameOutside (s t : State) : Prop := t.inbox = s.inbox ∧ t.hostReads = s.hostReads

/-- The status update at the completion of `s`'s pending command with ERRCODE `code` (R32): OVR and IE unchanged,
and LASTCMD the latched word. -/
structure Ended (s t : State) (code : BitVec 4) : Prop where
  busy : t.busy = false
  done : t.done = true
  err : t.err = decide (code ≠ 0)
  errcode : t.errcode = code
  ovr : t.ovr = s.ovr
  ie : t.ie = s.ie
  cmdq : t.cmdq = none
  lastcmd : ∀ w, s.cmdq = some w → t.lastcmd = w

/-- The command ended with error `e`: only STATUS, LASTCMD and the latch changed (R123). -/
structure Failed (s t : State) (e : CmdError) : Prop where
  ended : Ended s t e.code
  scalars : SameScalars s t
  points : SamePoints s t
  encoding : SameEncoding s t
  outside : SameOutside s t

/-- The command succeeded and wrote the scalar register `d`, and no other register but STATUS and LASTCMD. -/
structure WroteScalar (s t : State) (d : SReg) (v : Nat) : Prop where
  ended : Ended s t 0
  value : (t.readS d).toNat = v
  others : ∀ r, r ≠ d → t.readS r = s.readS r
  points : SamePoints s t
  encoding : SameEncoding s t
  outside : SameOutside s t

/-- The command succeeded and wrote the point register `d`, and no other register but STATUS and LASTCMD. -/
structure WrotePoint (s t : State) (d : PReg) (P : CurvePoint) : Prop where
  ended : Ended s t 0
  value : t.readP d = .point P
  others : ∀ r, r ≠ d → t.readP r = s.readP r
  scalars : SameScalars s t
  encoding : SameEncoding s t
  outside : SameOutside s t

/-- The command succeeded and wrote EBUF and ELEN, and no other register but STATUS and LASTCMD. -/
structure WroteEncoding (s t : State) (bytes : List Byte) (len : Nat) : Prop where
  ended : Ended s t 0
  bytes : t.ebuf.toList = bytes
  len : t.elen.toNat = len
  scalars : SameScalars s t
  points : SamePoints s t
  outside : SameOutside s t

/-! ## What a command names -/

/-- The scalar register a command may write (R38, R64). -/
def destS : Instr → Option SReg
  | .sadd d _ _ => some d
  | .pdbl _ _ => none
  | .padd _ _ _ => none
  | .pmul _ _ _ => none
  | .pcomp _ _ => none
  | .pdec _ _ => none

/-- The point register a command may write (R38, R64). -/
def destP : Instr → Option PReg
  | .sadd _ _ _ => none
  | .pdbl d _ => some d
  | .padd d _ _ => some d
  | .pmul d _ _ => some d
  | .pcomp _ _ => none
  | .pdec d _ => some d

/-- Whether a command may write EBUF and ELEN (R38). -/
def writesEncoding : Instr → Bool
  | .sadd _ _ _ => false
  | .pdbl _ _ => false
  | .padd _ _ _ => false
  | .pmul _ _ _ => false
  | .pcomp _ _ => true
  | .pdec _ _ => false

/-- The point registers a command reads, in operand order (R64, R98). -/
def sourcesP : Instr → List PReg
  | .sadd _ _ _ => []
  | .pdbl _ a => [a]
  | .padd _ a b => [a, b]
  | .pmul _ _ b => [b]
  | .pcomp a _ => [a]
  | .pdec _ _ => []

/-- The register-space words a command may change (R38): STATUS, LASTCMD and its destination's. -/
def mayChange (i : Instr) : Reg → Bool
  | .id => false
  | .cmd => false
  | .status => true
  | .ctrl => false
  | .elen => writesEncoding i
  | .lastcmd => true
  | .scalar r _ => destS i == some r
  | .ebuf _ => writesEncoding i
  | .reserved => false

/-- The bytes in EBUF form an encoding of `P` in format `f` (R105): byte 0, then x, and in the uncompressed form y. -/
def Encodes (s : State) (f : PointFormat) (P : CurvePoint) : Prop :=
  be2int (s.ebufBytes 1 32) = P.x.val ∧
    match f with
    | .compressed => (s.ebufByte 0).toNat = 0x02 + P.y.val % 2
    | .uncompressed => (s.ebufByte 0).toNat = 0x04 ∧ be2int (s.ebufBytes 33 32) = P.y.val

/-! ## Events -/

/-- A defined access: 32 bits wide, at an offset that is a multiple of 4 (R44). -/
def Access.defined (a : Access) : Bool := a.width == .bits32 && a.off % 4 == 0

/-- The core moves next: its event comes first, or no event is left (R31). -/
def coreNext (events : List Event) : Prop := events = [] ∨ events.head? = some .core

end Sys2Proof.Machine
end

