-- ==== Sys2Proof/Certificates/Slice0/Obligations.lean ====
section
/-! DEFINITION. The statements about the model, in the order of OBLIGATIONS.json. Each docstring names the rule of
spec/ it comes from. -/

open Sys2Proof Sys2Proof.Machine
open Sys2Proof.Config (Fp CurvePoint)

/-! ## Encoding -/

/-- R69 and R76: decoding the word of a well-formed command gives the command back, every operand included. -/
def Obligations.DecodeInvertsEncode : Prop :=
  ∀ i : Instr, i.WellFormed → decode (encode i) = .ok i

/-- R69 and R77: a word that decodes is the word of the command it decodes to, and that command is well formed. -/
def Obligations.EncodeInvertsDecode : Prop :=
  ∀ (w : Word) (i : Instr), decode w = .ok i → i.WellFormed ∧ encode i = w

/-- R68: the match, the mask, the extra condition and the operand fields of each command, and the rule's examples. -/
def Obligations.DecodeFollowsMatchAndMask : Prop :=
  encode (.sadd .s2 .s0 .s1) = 0x00010201#32 ∧ encode (.pmul .p2 .s0 .p0) = 0x00000204#32 ∧
  encode (.pcomp .p3 .uncompressed) = 0x01003005#32 ∧
  ∀ w : Word,
    (∀ d a b, decode w = .ok (.sadd d a b) ↔
      w &&& 0xFFFCCCFF#32 = 0x00000001#32 ∧ d.bits = dField w ∧ a.bits = aField w ∧ b.bits = bField w) ∧
    (∀ d a, decode w = .ok (.pdbl d a) ↔
      w &&& 0xFFFFCCFF#32 = 0x00000002#32 ∧ dField w ≠ 0 ∧ d.bits = dField w ∧ a.bits = aField w) ∧
    (∀ d a b, decode w = .ok (.padd d a b) ↔
      w &&& 0xFFFCCCFF#32 = 0x00000003#32 ∧ dField w ≠ 0 ∧
        d.bits = dField w ∧ a.bits = aField w ∧ b.bits = bField w) ∧
    (∀ d a b, decode w = .ok (.pmul d a b) ↔
      w &&& 0xFFFCCCFF#32 = 0x00000004#32 ∧ dField w ≠ 0 ∧
        d.bits = dField w ∧ a.bits = aField w ∧ b.bits = bField w) ∧
    (∀ a f, decode w = .ok (.pcomp a f) ↔
      w &&& 0xFEFFCFFF#32 = 0x00000005#32 ∧ a.bits = aField w ∧ f.bit = fField w) ∧
    (∀ d f, decode w = .ok (.pdec d f) ↔
      w &&& 0xFEFFFCFF#32 = 0x00000006#32 ∧ dField w ≠ 0 ∧ d.bits = dField w ∧ f.bit = fField w)

/-- R70 and R71: exactly the words with one of R71's four defects are illegal, and such a word completes with
ERR = 1 and ERRCODE = 4, nothing else changed. -/
def Obligations.IllegalWordsRaiseInvalidCommand : Prop :=
  ∀ w : Word,
    ((∃ e, decode w = .error e) ↔
      (res0Field w ≠ 0 ∨ res1Field w ≠ 0 ∨ res2Field w ≠ 0 ∨ res3Field w ≠ 0) ∨
      ((opField w).toNat = 0x00 ∨ 0x07 ≤ (opField w).toNat) ∨
      ((opField w).toNat ∈ [0x01, 0x03, 0x04] ∧ fField w ≠ 0 ∨
        (opField w).toNat = 0x02 ∧ (bField w ≠ 0 ∨ fField w ≠ 0) ∨
        (opField w).toNat = 0x05 ∧ (dField w ≠ 0 ∨ bField w ≠ 0) ∨
        (opField w).toNat = 0x06 ∧ (aField w ≠ 0 ∨ bField w ≠ 0)) ∨
      ((opField w).toNat ∈ [0x02, 0x03, 0x04, 0x06] ∧ dField w = 0)) ∧
    ((∃ e, decode w = .error e) → ∀ s : State,
      ∃ t, completion w s = .next t ∧ Failed s t .invalidCommand)

/-- R69: exactly 186 words are legal, so many of each command. -/
def Obligations.ExactlyOneHundredEightySixLegalWords : Prop :=
  ∃ legal : List Word,
    legal.Nodup ∧ (∀ w, w ∈ legal ↔ ∃ i, decode w = .ok i) ∧ legal.length = 186 ∧
    legal.countP (fun w => opField w == 0x01) = 64 ∧
    legal.countP (fun w => opField w == 0x02) = 12 ∧
    legal.countP (fun w => opField w == 0x03) = 48 ∧
    legal.countP (fun w => opField w == 0x04) = 48 ∧
    legal.countP (fun w => opField w == 0x05) = 8 ∧
    legal.countP (fun w => opField w == 0x06) = 6

/-- R76: the encoding formula, with unused fields 0, and the rule's examples. -/
def Obligations.EncodeFollowsTheFormula : Prop :=
  let enc (f : BitVec 1) (b a d : BitVec 2) (op : Word) : Word :=
    f.setWidth 32 <<< 24 ||| b.setWidth 32 <<< 16 ||| a.setWidth 32 <<< 12 ||| d.setWidth 32 <<< 8 ||| op
  (∀ d a b, encode (.sadd d a b) = enc 0 b.bits a.bits d.bits 0x01) ∧
  (∀ d a, encode (.pdbl d a) = enc 0 0 a.bits d.bits 0x02) ∧
  (∀ d a b, encode (.padd d a b) = enc 0 b.bits a.bits d.bits 0x03) ∧
  (∀ d a b, encode (.pmul d a b) = enc 0 b.bits a.bits d.bits 0x04) ∧
  (∀ a, encode (.pcomp a .compressed) = enc 0 0 a.bits 0 0x05 ∧
    encode (.pcomp a .uncompressed) = enc 1 0 a.bits 0 0x05) ∧
  (∀ d, encode (.pdec d .compressed) = enc 0 0 0 d.bits 0x06 ∧
    encode (.pdec d .uncompressed) = enc 1 0 0 d.bits 0x06) ∧
  encode (.sadd .s0 .s0 .s0) = 0x00000001#32 ∧ encode (.padd .p3 .p2 .p1) = 0x00012303#32 ∧
  encode (.pdbl .p1 .p0) = 0x00000102#32 ∧ encode (.pdec .p1 .compressed) = 0x00000106#32 ∧
  encode (.pdec .p1 .uncompressed) = 0x01000106#32 ∧ encode (.pcomp .p3 .compressed) = 0x00003005#32

/-- The words the spec writes out (R68, R76, L1-4, section 2 of the vectors) decode to the commands they stand for. -/
def Obligations.WrittenOutWordsDecode : Prop :=
  decode 0b00000000000000010000001000000001#32 = .ok (.sadd .s2 .s0 .s1) ∧
  decode 0b00000000000000000001001000000010#32 = .ok (.pdbl .p2 .p1) ∧
  decode 0b00000000000000010010001100000011#32 = .ok (.padd .p3 .p2 .p1) ∧
  decode 0b00000000000000000001001000000100#32 = .ok (.pmul .p2 .s1 .p0) ∧
  decode 0b00000001000000000011000000000101#32 = .ok (.pcomp .p3 .uncompressed) ∧
  decode 0b00000001000000000000001100000110#32 = .ok (.pdec .p3 .uncompressed)

/-- R73, R74 and R77: disassembling a legal word gives a line that assembles to that word, a printed command
assembles to itself, an illegal word prints as `.word`, and no line assembles to an illegal word. How spaces and the
case of C and U are read, and that PMULG prints as its expansion, are the model's choice: log entry 15. -/
def Obligations.DisassemblyInvertsAssembly : Prop :=
  (∀ w i, decode w = .ok i → assemble (disassemble w) = .ok i ∧ assembleWord (disassemble w) = .ok w) ∧
  (∀ w e, decode w = .error e → disassemble w = wordLine w) ∧
  (∀ i : Instr, i.WellFormed → assemble (Instr.asm i) = .ok i ∧ disassemble (encode i) = Instr.asm i) ∧
  (∀ line w, assembleWord line = .ok w → ∃ i, decode w = .ok i)

/-! ## Steps: issue, completion, the host's accesses, reset -/

/-- R31: when the core moves next and the latched word decodes to i, the step is i's completion on the state with
the core's turn taken. -/
def Obligations.StepRunsTheDecodedCommand : Prop :=
  ∀ (s : State) (w : Word) (i : Instr),
    s.cmdq = some w → coreNext s.inbox → decode w = .ok i →
      step s = exec i { s with inbox := s.inbox.tail }

/-- R31 and R69: when the latched word does not decode, the step completes it with InvalidCommand. -/
def Obligations.StepCompletesAnIllegalWord : Prop :=
  ∀ (s : State) (w : Word) (e : DecodeError),
    s.cmdq = some w → coreNext s.inbox → decode w = .error e →
      ∃ t, step s = .next t ∧ Failed { s with inbox := s.inbox.tail } t .invalidCommand

/-- R30: a CMD write that finds BUSY = 0 changes the latch and STATUS as the rule lists, and nothing else, whatever
the word: an illegal one is reported at its completion. No other step starts a command. -/
def Obligations.IssueLatchesTheWord : Prop :=
  (∀ (s : State) (w : Word) (rest : List Event),
    s.busy = false → s.inbox = wr 0x004 w :: rest →
      ∃ t, step s = .next t ∧
        t.cmdq = some w ∧ t.busy = true ∧ t.done = false ∧ t.err = false ∧ t.errcode = 0 ∧
        t.ovr = s.ovr ∧ t.ie = s.ie ∧ t.lastcmd = s.lastcmd ∧
        SameScalars s t ∧ SamePoints s t ∧ SameEncoding s t ∧ t.inbox = rest ∧ t.hostReads = s.hostReads ∧
        ∀ e, decode w = .error e → ∃ u, completion w t = .next u ∧ Failed t u .invalidCommand) ∧
  (∀ (s t : State) (w : Word), step s = .next t → t.cmdq = some w → s.cmdq ≠ some w →
    ∃ rest, s.inbox = wr 0x004 w :: rest ∧ s.busy = false)

/-- R33: a write at any offset while BUSY = 1 changes no register and sets OVR. -/
def Obligations.BusyWriteOnlySetsOverrun : Prop :=
  ∀ (s : State) (off : Nat) (w : Word),
    s.busy = true → off % 4 = 0 → off < 0x400 →
      s.hostAccess { off := off, width := .bits32, kind := .write w } = .next { s with ovr := true }

/-- R34: a read returns the register's current value, busy or not, and changes no register; while a command is
pending, STATUS reads BUSY = 1 and every other register reads as it did before the issue. -/
def Obligations.ReadChangesNoRegister : Prop :=
  ∀ (s : State) (off : Nat), off % 4 = 0 → off < 0x400 →
    s.hostAccess { off := off, width := .bits32, kind := .read }
      = .next { s with hostReads := s.regRead off :: s.hostReads } ∧
    (s.busy = true → (s.regRead 0x008).getLsbD 0 = true) ∧
    ∀ w, regAt off ≠ .status → (s.issue w).regRead off = s.regRead off

/-- R44 and R45: an access that reaches the register space and is not an aligned 32-bit one is a fault of the host
program, an aligned 32-bit one is RegRead or RegWrite of its offset, and one outside the space changes nothing.
That an access partly outside the space reaches it, and that one with both defects faults with `accessWidth`, are the
model's choice: log entry 3. -/
def Obligations.UndefinedAccessFaults : Prop :=
  ∀ (s : State) (a : Access),
    (a.off + a.width.bytes ≤ 0 ∨ 0x400 ≤ a.off → s.hostAccess a = .next s) ∧
    (0 < a.off + a.width.bytes → a.off < 0x400 →
      (a.width ≠ .bits32 → s.hostAccess a = .fault .accessWidth) ∧
      (a.width = .bits32 → a.off % 4 ≠ 0 → s.hostAccess a = .fault .accessAlignment) ∧
      (a.width = .bits32 → a.off % 4 = 0 →
        (a.kind = .read → s.hostAccess a = .next { s with hostReads := s.regRead a.off.toNat :: s.hostReads }) ∧
        ∀ w, a.kind = .write w → s.hostAccess a = .next (s.regWrite a.off.toNat w)))

/-- R6, R45 and R46, for every BASE: an access at host address BASE + off is the access at offset off, and one that
lies outside the 0x400 bytes at BASE does not reach the CORE. -/
def Obligations.RegisterSpaceLiesAtBase : Prop :=
  ∀ (s : State) (width : AccessWidth) (kind : AccessKind), s.inbox = [] →
    (∀ off : Nat, off < 0x400 →
      step (s.arrive (Config.base + off) width kind)
        = s.hostAccess { off := off, width := width, kind := kind }) ∧
    (∀ addr : Nat, addr + width.bytes ≤ Config.base ∨ Config.base + 0x400 ≤ addr →
      step (s.arrive addr width kind) = .next s)

/-- R138: every row of the table of reset values. -/
def Obligations.ResetValues : Prop :=
  (∀ r, State.reset.readS r = 0) ∧
  State.reset.readP .p0 = .point Config.G ∧
  State.reset.readP .p1 = .empty ∧ State.reset.readP .p2 = .empty ∧ State.reset.readP .p3 = .empty ∧
  State.reset.regRead 0x000 = 0x53324B31#32 ∧ State.reset.regRead 0x004 = 0 ∧
  State.reset.regRead 0x008 = 0 ∧ State.reset.regRead 0x00C = 0 ∧ State.reset.regRead 0x010 = 0 ∧
  State.reset.regRead 0x014 = 0 ∧ (∀ k, State.reset.ebufByte k = 0) ∧
  State.reset.cmdq = none ∧ State.reset.irq = false ∧
  State.reset.busy = false ∧ State.reset.done = false ∧ State.reset.err = false ∧
  State.reset.ovr = false ∧ State.reset.errcode = 0 ∧ State.reset.ie = false

/-- R139: a reset, with a command pending or not, gives the reset state, and a coinciding access has no effect. That
the events still to come and the words already read stay is the model's choice: log entry 7. -/
def Obligations.ResetDiscardsThePendingCommand : Prop :=
  ∀ (s : State) (lost : Option Access) (rest : List Event), s.inbox = .reset lost :: rest →
    step s = .next { State.reset with inbox := rest, hostReads := s.hostReads }

/-! ## Registers seen by the host -/

/-- R26: the reserved word offsets are those of the three ranges; each reads 0 and ignores writes, except that a write
while BUSY = 1 sets OVR. -/
def Obligations.ReservedOffsetsReadZero : Prop :=
  ∀ off : Nat, off % 4 = 0 → off < 0x400 →
    (regAt off = .reserved ↔
      (0x018 ≤ off ∧ off ≤ 0x0FF) ∨ (0x180 ≤ off ∧ off ≤ 0x1FF) ∨ (0x244 ≤ off ∧ off ≤ 0x3FF)) ∧
    (regAt off = .reserved → ∀ s : State, s.regRead off = 0 ∧
      ∀ w, s.regWrite off w = if s.busy then { s with ovr := true } else s)

/-- R19, R20, R21 and R24: ID reads its constant, CMD reads 0, and an idle write to ID, STATUS or LASTCMD is
ignored. -/
def Obligations.ReadOnlyRegistersIgnoreWrites : Prop :=
  ∀ s : State,
    s.regRead 0x000 = 0x53324B31#32 ∧ s.regRead 0x004 = 0 ∧ s.regRead 0x014 = s.lastcmd ∧
    ∀ off ∈ [0x000, 0x008, 0x014], ∀ w,
      s.regWrite off w = if s.busy then { s with ovr := true } else s

/-- R21: the bits of STATUS. -/
def Obligations.StatusWordLayout : Prop :=
  ∀ s : State,
    (s.regRead 0x008).getLsbD 0 = s.busy ∧ (s.regRead 0x008).getLsbD 1 = s.done ∧
    (s.regRead 0x008).getLsbD 2 = s.err ∧ (s.regRead 0x008).getLsbD 3 = s.ovr ∧
    (s.regRead 0x008).extractLsb' 4 4 = s.errcode ∧
    (s.regRead 0x008).getLsbD 8 = (s.ie && s.done) ∧ (s.regRead 0x008).extractLsb' 9 23 = 0

/-- R22: a CTRL write when idle sets IE, runs CLRSTAT and SCRUB where their bits are 1, and changes nothing else;
a CTRL read returns IE alone; a busy write only sets OVR; CTRL resets to 0. -/
def Obligations.CtrlWriteActions : Prop :=
  State.reset.regRead 0x00C = 0 ∧
  ∀ (s : State) (w : Word),
    s.regRead 0x00C = (if s.ie then 1#32 else 0#32) ∧
    (s.busy = true → s.regWrite 0x00C w = { s with ovr := true }) ∧
    (s.busy = false →
      let t := s.regWrite 0x00C w
      t.ie = w.getLsbD 0 ∧ t.busy = s.busy ∧ t.cmdq = s.cmdq ∧ t.lastcmd = s.lastcmd ∧
      t.readP .p0 = .point Config.G ∧ SameOutside s t ∧
      (if w.getLsbD 1 then t.done = false ∧ t.err = false ∧ t.ovr = false ∧ t.errcode = 0
        else t.done = s.done ∧ t.err = s.err ∧ t.ovr = s.ovr ∧ t.errcode = s.errcode) ∧
      (if w.getLsbD 2 then
          (∀ r, t.readS r = 0) ∧ t.p1 = .empty ∧ t.p2 = .empty ∧ t.p3 = .empty ∧
          (∀ k, t.ebufByte k = 0) ∧ t.elen = 0
        else SameScalars s t ∧ SamePoints s t ∧ SameEncoding s t))

/-- R23: an idle ELEN write keeps bits 6:0 alone, no other register changes, and ELEN reads back with 0 in bits
31:7; LEN = 33 and 65 are the only values PDEC does not reject for their length. -/
def Obligations.ElenKeepsSevenBits : Prop :=
  ∀ (s : State) (w : Word), s.busy = false →
    (s.regWrite 0x010 w).regRead 0x010 = w &&& 0x7F#32 ∧
    s.regWrite 0x010 w = { s with elen := w.setWidth 7 } ∧
    ∀ d f, d ≠ PReg.p0 → w &&& 0x7F#32 ≠ 33#32 → w &&& 0x7F#32 ≠ 65#32 →
      ∃ t, exec (.pdec d f) (s.regWrite 0x010 w) = .next t ∧
        Failed (s.regWrite 0x010 w) t .invalidInputLength

/-- R47: word j of S[i]'s window is bits 255-32j down to 224-32j, which are bytes 4j to 4j+3 of its big-endian
string, and an idle write replaces exactly those bits. -/
def Obligations.ScalarWindowWords : Prop :=
  ∀ (s : State) (i : SReg) (j : Nat), j < 8 →
    let off := 0x100 + 0x20 * i.bits.toNat + 4 * j
    s.regRead off = (s.readS i).extractLsb' (224 - 32 * j) 32 ∧
    (∀ k, k < 4 → some ((s.regRead off).extractLsb' (24 - 8 * k) 8)
      = (int2be 32 (s.readS i).toNat)[4 * j + k]?) ∧
    ∀ w, s.busy = false →
      let t := s.regWrite off w
      t = s.writeS i (t.readS i) ∧
      (t.readS i).extractLsb' (224 - 32 * j) 32 = w ∧
      ∀ j', j' < 8 → j' ≠ j →
        (t.readS i).extractLsb' (224 - 32 * j') 32 = (s.readS i).extractLsb' (224 - 32 * j') 32

/-- R48: word j of the EBUF window holds EBUF[4j] to EBUF[4j+3], the first in bits 31:24, word 16 holds EBUF[64]
alone, and an idle write sets exactly the bytes the word holds. -/
def Obligations.EbufWindowWords : Prop :=
  ∀ (s : State) (j : Nat), j ≤ 16 →
    (∀ k, k < 4 → (s.regRead (0x200 + 4 * j)).extractLsb' (24 - 8 * k) 8
      = if h : 4 * j + k < 65 then s.ebuf[4 * j + k] else 0) ∧
    ∀ w, s.busy = false →
      let t := s.regWrite (0x200 + 4 * j) w
      t = { s with ebuf := t.ebuf } ∧
      ∀ m (h : m < 65), t.ebuf[m] =
        if m / 4 = j then w.extractLsb' (24 - 8 * (m % 4)) 8 else s.ebuf[m]

/-- R51: every register write but one to CMD is idempotent, the CTRL actions and the busy write included. -/
def Obligations.WritesAreIdempotent : Prop :=
  ∀ (s : State) (off : Nat) (w : Word), regAt off ≠ .cmd →
    (s.regWrite off w).regWrite off w = s.regWrite off w

/-- R35: the interrupt level; what a completion, a CTRL write and an issue make of it; and that nothing else raises it
or drops it, but that R139's reset drops it. -/
def Obligations.InterruptRisesAndFalls : Prop :=
  (∀ s : State, s.irq = (s.ie && s.done) ∧ (s.regRead 0x008).getLsbD 8 = s.irq) ∧
  State.reset.irq = false ∧
  (∀ (s t : State) (w : Word), s.cmdq = some w → completion w s = .next t → t.irq = s.ie) ∧
  (∀ (s : State) (w : Word), s.busy = false →
    (s.regWrite 0x00C w).irq = (w.getLsbD 0 && (s.done && !w.getLsbD 1)) ∧ (s.regWrite 0x004 w).irq = false) ∧
  (∀ s t : State, step s = .next t → s.irq = false → t.irq = true →
    (s.ie = true ∧ coreNext s.inbox ∧ ∃ w, s.cmdq = some w ∧ t.cmdq = none ∧ t.lastcmd = w) ∨
    (s.done = true ∧ ∃ w rest, s.inbox = wr 0x00C w :: rest ∧ w.getLsbD 0 = true)) ∧
  (∀ s t : State, step s = .next t → s.irq = true → t.irq = false →
    (∃ w rest, s.inbox = wr 0x004 w :: rest) ∨
    (∃ w rest, s.inbox = wr 0x00C w :: rest ∧ (w.getLsbD 0 = false ∨ w.getLsbD 1 = true)) ∨
    (∃ lost rest, s.inbox = .reset lost :: rest))

/-! ## SADD -/

/-- R79: SADD's result, its error, and everything it leaves unchanged. -/
def Obligations.SaddAddsModuloN : Prop :=
  ∀ (d a b : SReg) (s : State),
    let r := ((s.readS a).toNat + (s.readS b).toNat) % Config.n
    (r ≠ 0 → ∃ t, exec (.sadd d a b) s = .next t ∧ WroteScalar s t d r) ∧
    (r = 0 → ∃ t, exec (.sadd d a b) s = .next t ∧ Failed s t .pointAtInfinity)

/-- R85: the same source values give the same result or the same error, and the sources commute. -/
def Obligations.SaddIsDeterministicAndCommutative : Prop :=
  (∀ (d a b d' a' b' : SReg) (s s' : State),
    s.readS a = s'.readS a' → s.readS b = s'.readS b' →
      ∃ t t', exec (.sadd d a b) s = .next t ∧ exec (.sadd d' a' b') s' = .next t' ∧
        t.errcode = t'.errcode ∧ (t.err = false → t.readS d = t'.readS d')) ∧
  (∀ (d a b : SReg) (s : State), exec (.sadd d a b) s = exec (.sadd d b a) s)

/-- R86: a result of SADD lies in [1, n). -/
def Obligations.SaddResultLiesBelowN : Prop :=
  ∀ (d a b : SReg) (s t : State), exec (.sadd d a b) s = .next t → t.err = false →
    1 ≤ (t.readS d).toNat ∧ (t.readS d).toNat < Config.n

/-- R83: the range test on v, with v in S[a] and 0 in S[b]. -/
def Obligations.SaddTestsTheRange : Prop :=
  ∀ (d a b : SReg) (s : State), a ≠ b → s.readS b = 0 →
    let v := (s.readS a).toNat
    ∃ t, exec (.sadd d a b) s = .next t ∧
      (v = 0 ∨ v = Config.n → t.errcode = 3) ∧
      (0 < v → v < Config.n → t.errcode = 0 ∧ (t.readS d).toNat = v) ∧
      (Config.n < v → t.errcode = 0 ∧ (t.readS d).toNat = v - Config.n ∧ v - Config.n ≠ v) ∧
      (Config.n ≤ v ↔ (t.err = true ∧ v ≠ 0) ∨ (t.err = false ∧ (t.readS d).toNat ≠ v))

/-! ## Field and group -/

/-- R89: inv_p is the one inverse, and equals z^(p-2) mod p; R92 and R93 never apply it to 0. -/
def Obligations.FieldInverseIsTheInverse : Prop :=
  (∀ z : Fp, z.val ≠ 0 →
    1 ≤ (finv z).val ∧ (finv z).val = z.val ^ (Config.p - 2) % Config.p ∧
    z.val * (finv z).val % Config.p = 1 ∧
    ∀ u : Nat, u < Config.p → z.val * u % Config.p = 1 → u = (finv z).val) ∧
  (∀ P Q : CurvePoint, P.x ≠ Q.x → (Q.x - P.x).val ≠ 0) ∧
  (∀ P : CurvePoint, P.y.val ≠ 0 → (fdouble P.y).val ≠ 0)

/-- R109: sqrt_p is α^((p+1)/4) mod p, a square root exactly when α has one, and the two roots of a square α ≠ 0
are β and p - β, one even and one odd. -/
def Obligations.FieldSquareRootIsASquareRoot : Prop :=
  Config.p % 4 = 3 ∧
  (Config.p + 1) / 4 = 0x3FFFFFFFFFFFFFFFFFFFFFFFFFFFFFFFFFFFFFFFFFFFFFFFFFFFFFFFBFFFFF0C ∧
  ∀ α : Fp,
    (fsqrt α).val = α.val ^ ((Config.p + 1) / 4) % Config.p ∧
    ((∃ β : Fp, β * β = α) ↔ fsqrt α * fsqrt α = α) ∧
    (fsqrt α * fsqrt α = α → α.val ≠ 0 →
      (fneg (fsqrt α)).val = Config.p - (fsqrt α).val ∧
      (∀ β : Fp, β * β = α ↔ β = fsqrt α ∨ β = fneg (fsqrt α)) ∧
      (fsqrt α).val % 2 ≠ (fneg (fsqrt α)).val % 2)

/-- R92 and R93: addition and doubling are the affine group law, each formula as integers modulo p, and the two
branches for x1 = x2 cover every pair of points on the curve. -/
def Obligations.GroupLawFollowsTheFormulas : Prop :=
  (∀ P Q : CurvePoint, onCurve P = true → onCurve Q = true → P.x = Q.x →
    Q.y = P.y ∨ Q.y.val = Config.p - P.y.val) ∧
  (∀ Q : GroupElt, GroupElt.add .infinity Q = Q ∧ GroupElt.add Q .infinity = Q) ∧
  GroupElt.dbl .infinity = .infinity ∧
  (∀ P Q : CurvePoint, P.x = Q.x →
    GroupElt.add (.affine P) (.affine Q) =
      if (P.y.val + Q.y.val) % Config.p = 0 then .infinity else GroupElt.dbl (.affine P)) ∧
  (∀ P Q : CurvePoint, P.x ≠ Q.x →
    ∃ (l : Nat) (R : CurvePoint), GroupElt.add (.affine P) (.affine Q) = .affine R ∧
      ((l * (Q.x.val - P.x.val) : Int) - (Q.y.val - P.y.val)) % Config.p = 0 ∧
      (R.x.val : Int) = (l * l - P.x.val - Q.x.val) % Config.p ∧
      (R.y.val : Int) = (l * (P.x.val - R.x.val) - P.y.val) % Config.p) ∧
  (∀ P : CurvePoint, P.y.val = 0 → GroupElt.dbl (.affine P) = .infinity) ∧
  (∀ P : CurvePoint, P.y.val ≠ 0 →
    ∃ (l : Nat) (R : CurvePoint), GroupElt.dbl (.affine P) = .affine R ∧
      ((l * (2 * P.y.val) : Int) - 3 * P.x.val * P.x.val) % Config.p = 0 ∧
      (R.x.val : Int) = (l * l - 2 * P.x.val) % Config.p ∧
      (R.y.val : Int) = (l * (P.x.val - R.x.val) - P.y.val) % Config.p)

/-- R96: no point of E has y = 0, so doubling never gives O, and PDBL writes its result on every valid register. -/
def Obligations.DoublingNeverGivesInfinity : Prop :=
  Config.p % 3 = 1 ∧ Config.n % 2 = 1 ∧ Config.h = 1 ∧ (fpow (fneg Config.b) ((Config.p - 1) / 3)).val ≠ 1 ∧
  (∀ P : CurvePoint, onCurve P = true → P.y.val ≠ 0 ∧ GroupElt.dbl (.affine P) ≠ .infinity) ∧
  (∀ (d a : PReg) (s : State) (Q : CurvePoint), d ≠ .p0 → s.readP a = .point Q → onCurve Q = true →
    ∃ t R, exec (.pdbl d a) s = .next t ∧ GroupElt.dbl (.affine Q) = .affine R ∧ WrotePoint s t d R)

/-- R94: add and dbl stay in E, and add is commutative and associative with identity O. -/
def Obligations.GroupLawIsAnAbelianGroup : Prop :=
  (∀ P, P.inE = true → (GroupElt.dbl P).inE = true ∧ GroupElt.add .infinity P = P ∧
    GroupElt.add P .infinity = P ∧ GroupElt.add P P.neg = .infinity ∧ P.neg.inE = true) ∧
  (∀ P Q, P.inE = true → Q.inE = true →
    (GroupElt.add P Q).inE = true ∧ GroupElt.add P Q = GroupElt.add Q P) ∧
  (∀ P Q R, P.inE = true → Q.inE = true → R.inE = true →
    GroupElt.add (GroupElt.add P Q) R = GroupElt.add P (GroupElt.add Q R))

/-- R90: E has n elements and n is prime, so every element but O has order n; G is one of them. -/
def Obligations.CurveHasPrimeOrder : Prop :=
  (∀ P : CurvePoint, GroupElt.inE (.affine P) = true ↔
    (P.y.val ^ 2) % Config.p = (P.x.val ^ 3 + 7) % Config.p) ∧
  (∀ P : GroupElt, GroupElt.add .infinity P = P ∧ GroupElt.add P .infinity = P) ∧
  Nat.Prime Config.n ∧ Nat.Prime Config.p ∧ Config.h = 1 ∧ onCurve Config.G = true ∧
  Nat.card { P : GroupElt // P.inE = true } = Config.n ∧
  ∀ P : GroupElt, P.inE = true → P ≠ .infinity →
    GroupElt.mulRec Config.n P = .infinity ∧
    ∀ k, 0 < k → k < Config.n → GroupElt.mulRec k P ≠ .infinity

/-- R95 and R97: doubling and adding gives the value that repeated addition defines. -/
def Obligations.MulIsRepeatedAddition : Prop :=
  ∀ (k : Nat) (P : GroupElt), P.inE = true → GroupElt.mul k P = GroupElt.mulRec k P

/-- R95: scalar multiplication as the rule defines it, its reduction modulo n, and when it gives O. -/
def Obligations.MulReducesModuloN : Prop :=
  ∀ P : GroupElt, P.inE = true →
    GroupElt.mul 0 P = .infinity ∧
    (∀ k, 1 ≤ k → GroupElt.mul k P = GroupElt.add (GroupElt.mul (k - 1) P) P) ∧
    (P ≠ .infinity → ∀ k, GroupElt.mul k P = GroupElt.mul (k % Config.n) P ∧
      (GroupElt.mul k P = .infinity ↔ k % Config.n = 0))

/-- R104's additive homomorphism: multiplying by (a + b) mod n is adding the two multiples. -/
def Obligations.MulIsAdditive : Prop :=
  ∀ (a b : Scalar) (P : GroupElt), P.inE = true →
    GroupElt.mul ((a.toNat + b.toNat) % Config.n) P
      = GroupElt.add (GroupElt.mul a.toNat P) (GroupElt.mul b.toNat P)

/-! ## The point commands -/

/-- R99: PDBL's outcome for every source, and everything it leaves unchanged. -/
def Obligations.PdblDoubles : Prop :=
  ∀ (d a : PReg) (s : State), d ≠ .p0 →
    (s.readP a = .empty → ∃ t, exec (.pdbl d a) s = .next t ∧ Failed s t .invalidPoint) ∧
    ∀ Q, s.readP a = .point Q →
      (∀ R, GroupElt.dbl (.affine Q) = .affine R →
        ∃ t, exec (.pdbl d a) s = .next t ∧ WrotePoint s t d R) ∧
      (GroupElt.dbl (.affine Q) = .infinity →
        ∃ t, exec (.pdbl d a) s = .next t ∧ Failed s t .pointAtInfinity)

/-- R101: PADD's outcome for every pair of sources, and everything it leaves unchanged. -/
def Obligations.PaddAdds : Prop :=
  ∀ (d a b : PReg) (s : State), d ≠ .p0 →
    (s.readP a = .empty ∨ s.readP b = .empty →
      ∃ t, exec (.padd d a b) s = .next t ∧ Failed s t .invalidPoint) ∧
    ∀ Q1 Q2, s.readP a = .point Q1 → s.readP b = .point Q2 →
      (∀ R, GroupElt.add (.affine Q1) (.affine Q2) = .affine R →
        ∃ t, exec (.padd d a b) s = .next t ∧ WrotePoint s t d R) ∧
      (GroupElt.add (.affine Q1) (.affine Q2) = .infinity →
        ∃ t, exec (.padd d a b) s = .next t ∧ Failed s t .pointAtInfinity)

/-- R100 and R102: PADD of a register with itself is PDBL, of a register with its negative is PointAtInfinity, and
its sources commute on valid registers. -/
def Obligations.PaddCornerCases : Prop :=
  (∀ (d a : PReg) (s : State), exec (.padd d a a) s = exec (.pdbl d a) s) ∧
  (∀ (d a b : PReg) (s : State) (Q : CurvePoint), d ≠ .p0 →
    s.readP a = .point Q → s.readP b = .point { x := Q.x, y := fneg Q.y } →
      ∃ t, exec (.padd d a b) s = .next t ∧ Failed s t .pointAtInfinity) ∧
  (∀ (d a b : PReg) (s : State), s.Inv → exec (.padd d a b) s = exec (.padd d b a) s)

/-- R103: PMUL's outcome for every scalar and source, and everything it leaves unchanged: the multiple that R95
defines by repeated addition, of the scalar reduced modulo n. -/
def Obligations.PmulMultiplies : Prop :=
  ∀ (d : PReg) (a : SReg) (b : PReg) (s : State), d ≠ .p0 →
    let k := (s.readS a).toNat
    (s.readP b = .empty → ∃ t, exec (.pmul d a b) s = .next t ∧ Failed s t .invalidPoint) ∧
    ∀ Q, s.readP b = .point Q → onCurve Q = true →
      (k % Config.n = 0 → ∃ t, exec (.pmul d a b) s = .next t ∧ Failed s t .pointAtInfinity) ∧
      (k % Config.n ≠ 0 → ∃ t R, exec (.pmul d a b) s = .next t ∧
        GroupElt.mulRec (k % Config.n) (.affine Q) = .affine R ∧
        GroupElt.mulRec k (.affine Q) = .affine R ∧ onCurve R = true ∧ WrotePoint s t d R)

/-- R107: PCOMP's outcome, and everything it leaves unchanged: the 65 bytes and the length of each format. -/
def Obligations.PcompEncodes : Prop :=
  ∀ (a : PReg) (s : State),
    (s.readP a = .empty → ∀ f, ∃ t, exec (.pcomp a f) s = .next t ∧ Failed s t .invalidPoint) ∧
    ∀ Q, s.readP a = .point Q →
      (∃ t, exec (.pcomp a .compressed) s = .next t ∧
        WroteEncoding s t
          (BitVec.ofNat 8 (0x02 + Q.y.val % 2) :: (int2be 32 Q.x.val ++ List.replicate 32 0)) 33) ∧
      (∃ t, exec (.pcomp a .uncompressed) s = .next t ∧
        WroteEncoding s t (0x04 :: (int2be 32 Q.x.val ++ int2be 32 Q.y.val)) 65)

/-- R110, R111 and R114: PDEC first checks ELEN against the length F requires, whatever EBUF holds; then it writes
the point on the curve that EBUF encodes in the format F names, or raises InvalidPoint when there is none. -/
def Obligations.PdecDecodes : Prop :=
  ∀ (d : PReg) (f : PointFormat) (s : State), d ≠ .p0 →
    let L := match f with
      | .compressed => 33
      | .uncompressed => 65
    (s.elen.toNat ≠ L → ∃ t, exec (.pdec d f) s = .next t ∧ Failed s t .invalidInputLength) ∧
    (s.elen.toNat = L →
      (∀ P, onCurve P = true → Encodes s f P → ∃ t, exec (.pdec d f) s = .next t ∧ WrotePoint s t d P) ∧
      ((¬ ∃ P, onCurve P = true ∧ Encodes s f P) →
        ∃ t, exec (.pdec d f) s = .next t ∧ Failed s t .invalidPoint))

/-- R106: of y and p - y exactly one is even, and x with the parity of y picks out one point of the curve. -/
def Obligations.ParityPicksOnePoint : Prop :=
  ∀ P Q : CurvePoint, onCurve P = true → onCurve Q = true →
    (P.y.val % 2 = 0 ↔ (Config.p - P.y.val) % 2 ≠ 0) ∧
    (P.x = Q.x → P.y.val % 2 = Q.y.val % 2 → P = Q)

/-- R113: PCOMP then PDEC of the same format gives the source point, and PDEC then PCOMP gives the same bytes up to
the length; with F = 0 the bytes past the encoding come back as zeros; the other format changes the bytes and not the
point. -/
def Obligations.EncodingRoundTrips : Prop :=
  (∀ (a d : PReg) (f : PointFormat) (s : State) (Q : CurvePoint), d ≠ .p0 →
    s.readP a = .point Q → onCurve Q = true →
      ∃ t u, exec (.pcomp a f) s = .next t ∧ exec (.pdec d f) t = .next u ∧
        u.err = false ∧ u.readP d = s.readP a) ∧
  (∀ (d : PReg) (f : PointFormat) (s t : State), d ≠ .p0 →
    exec (.pdec d f) s = .next t → t.err = false →
      ∃ u, exec (.pcomp d f) t = .next u ∧ u.err = false ∧ u.elen = s.elen ∧
        (∀ k, k < s.elen.toNat → u.ebufByte k = s.ebufByte k) ∧
        (f = .compressed → ∀ k, 33 ≤ k → u.ebufByte k = 0)) ∧
  (∀ (a : PReg) (f f' : PointFormat) (s : State) (Q : CurvePoint), f ≠ f' → s.readP a = .point Q →
    ∃ t t', exec (.pcomp a f) s = .next t ∧ exec (.pcomp a f') s = .next t' ∧
      t.readP a = s.readP a ∧ t'.readP a = s.readP a ∧ t.ebufByte 0 ≠ t'.ebufByte 0)

/-! ## Errors and frames -/

/-- R18: P0 is G in every state, and a command that names P0 as its destination raises InvalidCommand. -/
def Obligations.HardwiredBasePoint : Prop :=
  (∀ s : State, s.readP .p0 = .point Config.G ∧
    (s.readP .p0).valid = true ∧ ∀ Q, s.writeP .p0 Q = s) ∧
  (∀ (i : Instr) (s : State), destP i = some .p0 →
    ∃ t, exec i s = .next t ∧ Failed s t .invalidCommand)

/-- R117: an EMPTY source raises InvalidPoint, and it is the only cause of that error but for PDEC. -/
def Obligations.EmptySourceRaisesInvalidPoint : Prop :=
  ∀ (i : Instr) (s : State), i.WellFormed →
    ((∃ r ∈ sourcesP i, s.readP r = .empty) → ∃ t, exec i s = .next t ∧ Failed s t .invalidPoint) ∧
    ((∀ d f, i ≠ .pdec d f) → ∀ t, exec i s = .next t → t.errcode = 2 →
      ∃ r ∈ sourcesP i, s.readP r = .empty)

/-- R118: for each command, the conditions of the table under which each error is raised, on valid registers, and
InvalidCommand for the illegal words alone. -/
def Obligations.ErrorTable : Prop :=
  ∀ s : State, s.Inv →
    (∀ w, (∃ e, decode w = .error e) ↔ ∃ t, completion w s = .next t ∧ t.errcode = 4) ∧
    (∀ d a b, ∃ t, exec (.sadd d a b) s = .next t ∧ (t.errcode = 0 ∨ t.errcode = 3) ∧
      (t.errcode = 3 ↔ ((s.readS a).toNat + (s.readS b).toNat) % Config.n = 0)) ∧
    (∀ d a, d ≠ PReg.p0 → ∃ t, exec (.pdbl d a) s = .next t ∧ (t.errcode = 0 ∨ t.errcode = 2) ∧
      (t.errcode = 2 ↔ s.readP a = .empty)) ∧
    (∀ d a b, d ≠ PReg.p0 → ∃ t, exec (.padd d a b) s = .next t ∧
      (t.errcode = 0 ∨ t.errcode = 2 ∨ t.errcode = 3) ∧
      (t.errcode = 2 ↔ s.readP a = .empty ∨ s.readP b = .empty) ∧
      (t.errcode = 3 ↔ ∃ Q, s.readP a = .point Q ∧ s.readP b = .point { x := Q.x, y := fneg Q.y })) ∧
    (∀ d a b, d ≠ PReg.p0 → ∃ t, exec (.pmul d a b) s = .next t ∧
      (t.errcode = 0 ∨ t.errcode = 2 ∨ t.errcode = 3) ∧
      (t.errcode = 2 ↔ s.readP b = .empty) ∧
      (t.errcode = 3 ↔ s.readP b ≠ .empty ∧ (s.readS a).toNat % Config.n = 0)) ∧
    (∀ a f, ∃ t, exec (.pcomp a f) s = .next t ∧ (t.errcode = 0 ∨ t.errcode = 2) ∧
      (t.errcode = 2 ↔ s.readP a = .empty)) ∧
    (∀ d f, d ≠ PReg.p0 → ∃ t, exec (.pdec d f) s = .next t ∧
      (t.errcode = 0 ∨ t.errcode = 1 ∨ t.errcode = 2) ∧
      (t.errcode = 1 ↔ s.elen ≠ formatLen f) ∧
      (t.errcode = 2 ↔ s.elen = formatLen f ∧ ¬ ∃ P, onCurve P = true ∧ Encodes s f P))

/-- R123: a command that ends with an error, of a legal or an illegal form, leaves everything but STATUS and
LASTCMD as it was before the completion, and as it was before the issue when the issue comes just before. -/
def Obligations.ErrorsAreAllOrNothing : Prop :=
  ∀ (w : Word) (s t : State), s.cmdq = some w → completion w s = .next t → t.err = true →
    SameScalars s t ∧ SamePoints s t ∧ SameEncoding s t ∧ SameOutside s t ∧
    t.ie = s.ie ∧ t.ovr = s.ovr ∧ t.lastcmd = w ∧ t.errcode ≠ 0 ∧ t.busy = false ∧ t.done = true ∧
    (∀ off, regAt off ≠ .status → regAt off ≠ .lastcmd → t.regRead off = s.regRead off) ∧
    ∀ s0 : State, s = s0.issue w →
      SameScalars s0 t ∧ SamePoints s0 t ∧ SameEncoding s0 t ∧ SameOutside s0 t ∧
      (∀ off, regAt off ≠ .status → regAt off ≠ .lastcmd → t.regRead off = s0.regRead off)

/-- R38: a command writes its destination, STATUS and LASTCMD, and nothing else that the host can read or a later
command can use. -/
def Obligations.CommandsWriteOnlyTheirDestination : Prop :=
  ∀ (i : Instr) (s : State), ∃ t, exec i s = .next t ∧
    (∀ r, destS i ≠ some r → t.readS r = s.readS r) ∧
    (∀ r, destP i ≠ some r → t.readP r = s.readP r) ∧
    (writesEncoding i = false → SameEncoding s t) ∧ SameOutside s t ∧
    t.ie = s.ie ∧ t.ovr = s.ovr ∧ t.busy = false ∧ t.done = true ∧ t.cmdq = none ∧
    (∀ off, mayChange i (regAt off) = false → t.regRead off = s.regRead off)

/-- R37: what a command does depends on no STATUS or CTRL bit, on no pending event, and on LASTCMD not at all. -/
def Obligations.CommandsReadNoStatus : Prop :=
  ∀ (i : Instr) (s s' : State), SameScalars s s' → SamePoints s s' → SameEncoding s s' →
    ∃ t t', exec i s = .next t ∧ exec i s' = .next t' ∧
      SameScalars t t' ∧ SamePoints t t' ∧ SameEncoding t t' ∧ t.err = t'.err ∧ t.errcode = t'.errcode

/-- R125: issuing the same command again after an error gives the same error. -/
def Obligations.RetryGivesTheSameError : Prop :=
  ∀ (i : Instr) (s t : State) (w : Word), exec i s = .next t → t.err = true →
    ∃ u, exec i (t.issue w) = .next u ∧ u.err = true ∧ u.errcode = t.errcode ∧
      SameScalars s u ∧ SamePoints s u ∧ SameEncoding s u

/-! ## Invariants and whole-machine rules -/

/-- R28, R39 and R21: the invariant holds in the reset state. -/
def Obligations.InvariantAtReset : Prop := State.reset.Inv

/-- R28, R39 and R21: every step keeps the invariant: a completion, a host access, a reset or no move at all. -/
def Obligations.InvariantKeptByEveryStep : Prop :=
  ∀ s t : State, s.Inv → step s = .next t → t.Inv

/-- R33 and R34: a host access that finds a command pending changes no source, no destination and no other register
of the pending command, so the command runs on the registers as they were at its issue. -/
def Obligations.PendingCommandIsUndisturbed : Prop :=
  ∀ (s t : State) (a : Access) (rest : List Event),
    s.busy = true → s.inbox = .host a :: rest → step s = .next t →
      SameScalars s t ∧ SamePoints s t ∧ SameEncoding s t ∧
      t.cmdq = s.cmdq ∧ t.busy = true ∧ t.done = s.done ∧ t.err = s.err ∧ t.errcode = s.errcode ∧
      t.ie = s.ie ∧ t.lastcmd = s.lastcmd ∧ t.inbox = rest

/-- R31 and R149: a pending command completes after any finite number of defined host accesses, and its results are
those it would have given at once. That the list of events decides when the core moves is how the model represents
LATENCY: log entry 1. -/
def Obligations.PendingCommandCompletes : Prop :=
  ∀ (s : State) (w : Word) (accesses : List Access) (rest : List Event),
    s.Inv → s.cmdq = some w → (∀ a ∈ accesses, a.defined = true) →
    s.inbox = accesses.map .host ++ rest → coreNext rest →
      ∃ u t, completion w s = .next u ∧
        Host.Core.run core (accesses.length + 1) s = .next t ∧
        SameScalars u t ∧ SamePoints u t ∧ SameEncoding u t ∧
        t.err = u.err ∧ t.errcode = u.errcode ∧ t.lastcmd = w ∧
        t.busy = false ∧ t.done = true ∧ t.cmdq = none ∧ t.ie = s.ie ∧ t.inbox = rest.tail

/-- The model's reading of R15 and R53 (log entry 2): with nothing pending, the core's turn changes no register. -/
def Obligations.IdleCoreDoesNothing : Prop :=
  ∀ s : State, s.cmdq = none → coreNext s.inbox → step s = .next { s with inbox := s.inbox.tail }

/-- R45 and R53: with any events behind it, the next host access is one step, on the state that the steps before it
left; an aligned word of the register space is read or written by that step. That the list's order is the order in
which accesses reach the CORE is the model's choice: log entry 6. -/
def Obligations.StepMakesTheNextAccess : Prop :=
  ∀ (s : State) (rest : List Event),
    (∀ a, s.inbox = .host a :: rest → step s = State.hostAccess { s with inbox := rest } a) ∧
    ∀ off : Nat, off % 4 = 0 → off < 0x400 →
      (s.inbox = rd off :: rest → step s = .next { s with inbox := rest, hostReads := s.regRead off :: s.hostReads }) ∧
      ∀ w, s.inbox = wr off w :: rest → step s = .next (State.regWrite { s with inbox := rest } off w)
end

