-- ==== Sys2Proof/Laws/Bytes.lean ====
section
/-! SUPPORT. Byte strings and windows: `int2be` and `be2int` are inverse (R8), and each window operation in terms of
the bytes or bits it holds (R47, R48). -/

namespace Sys2Proof.Machine

/-! ## Byte strings -/

/-- Reading one more byte on the right. -/
theorem be2int_append (l : List Byte) (b : Byte) : be2int (l ++ [b]) = be2int l * 256 + b.toNat := by
  simp [be2int, List.foldl_append]

/-- Reading what was written gives the value, for a value of N bytes (R8). -/
theorem be2int_int2be (n v : Nat) (h : v < 256 ^ n) : be2int (int2be n v) = v := by
  induction n generalizing v with
  | zero => simp at h; subst h; rfl
  | succ n ih =>
    rw [int2be, be2int_append, ih _ (by rw [Nat.div_lt_iff_lt_mul (by decide)]; rwa [pow_succ] at h)]
    simp only [BitVec.toNat_ofNat]
    omega

/-- Writing what was read gives the bytes (R8). -/
theorem int2be_be2int (l : List Byte) : int2be l.length (be2int l) = l := by
  induction l using List.reverseRecOn with
  | nil => rfl
  | append_singleton l b ih =>
    have hb := b.isLt
    rw [List.length_append, List.length_singleton, int2be, be2int_append,
      show (be2int l * 256 + b.toNat) / 256 = be2int l by omega, ih]
    congr
    apply BitVec.eq_of_toNat_eq
    simp only [BitVec.toNat_ofNat]
    omega

/-- A string of N bytes reads as less than 256^N. -/
theorem be2int_lt (l : List Byte) : be2int l < 256 ^ l.length := by
  induction l using List.reverseRecOn with
  | nil => simp [be2int]
  | append_singleton l b ih =>
    have hb := b.isLt
    rw [be2int_append, List.length_append, List.length_singleton, pow_succ]
    omega

/-- Byte `i` of a big-endian string (R8). -/
theorem getElem?_int2be (n v i : Nat) (h : i < n) :
    (int2be n v)[i]? = some (BitVec.ofNat 8 (v / 256 ^ (n - 1 - i))) := by
  induction n generalizing v with
  | zero => omega
  | succ n ih =>
    rw [int2be]
    rcases Nat.lt_or_ge i n with hi | hi
    · rw [List.getElem?_append_left (by simpa [length_int2be] using hi), ih _ hi, Nat.div_div_eq_div_mul,
        ← pow_succ', show n - 1 - i + 1 = n + 1 - 1 - i by omega]
    · obtain rfl : i = n := by omega
      rw [List.getElem?_append_right (by simp [length_int2be])]
      simp [length_int2be]

/-! ## EBUF -/

theorem ebufByte_of_lt (s : State) {k : Nat} (h : k < 65) : s.ebufByte k = s.ebuf[k] := by
  simp [State.ebufByte, h]

theorem ebufByte_of_ge (s : State) {k : Nat} (h : 65 ≤ k) : s.ebufByte k = 0 := by
  simp [State.ebufByte, Nat.not_lt.mpr h]

theorem length_ebufBytes (s : State) {i len : Nat} (h : i + len ≤ 65) : (s.ebufBytes i len).length = len := by
  simp [State.ebufBytes]
  omega

/-- What `setBufferWord` holds (R48). -/
theorem getElem_setBufferWord (e : Vector Byte 65) (j : Fin 17) (w : Word) (k : Nat) (h : k < 65) :
    (setBufferWord e j w)[k] = if k / 4 = j.val then laneByte w (k % 4) else e[k] := by
  simp [setBufferWord]

/-- What `sec1Bytes` holds (R105, R107). -/
theorem toList_sec1Bytes (P : Config.CurvePoint) (f : PointFormat) :
    (sec1Bytes P f).toList = sec1Lead P f :: (int2be 32 P.x.val ++ sec1Tail P f) := by
  simp [sec1Bytes]

/-- The lanes of a word put together from four bytes, the first in bits 31:24 (R42). -/
theorem laneByte_append (a b c d : Byte) :
    laneByte (a ++ b ++ c ++ d) 0 = a ∧ laneByte (a ++ b ++ c ++ d) 1 = b ∧
    laneByte (a ++ b ++ c ++ d) 2 = c ∧ laneByte (a ++ b ++ c ++ d) 3 = d := by
  refine ⟨?_, ?_, ?_, ?_⟩ <;>
  · apply BitVec.eq_of_getLsbD_eq
    intro i hi
    simp only [laneByte, BitVec.getLsbD_extractLsb', BitVec.getLsbD_append]
    interval_cases i <;> simp

/-- Lane `k` of a word of the EBUF window is the byte at its offset (R48). -/
theorem laneByte_ebufWord (s : State) (j : Fin 17) {k : Nat} (h : k < 4) :
    laneByte (s.ebufWord j) k = s.ebufByte (4 * j.val + k) := by
  obtain ⟨h0, h1, h2, h3⟩ := laneByte_append (s.ebufByte (4 * j.val)) (s.ebufByte (4 * j.val + 1))
    (s.ebufByte (4 * j.val + 2)) (s.ebufByte (4 * j.val + 3))
  unfold State.ebufWord
  interval_cases k <;> assumption

/-! ## Scalar windows -/

/-- The word written is the word read back (R47). -/
theorem scalarWord_setScalarWord_same (v : Scalar) (j : Fin 8) (w : Word) :
    scalarWord (setScalarWord v j w) j = w := by
  apply BitVec.eq_of_getLsbD_eq
  intro i hi
  have hj := j.isLt
  simp only [scalarWord, setScalarWord, BitVec.getLsbD_extractLsb', BitVec.getLsbD_or, BitVec.getLsbD_and,
    BitVec.getLsbD_not, BitVec.getLsbD_shiftLeft, BitVec.getLsbD_setWidth, hi, decide_true, Bool.true_and,
    Nat.add_sub_cancel_left]
  have h1 : 224 - 32 * j.val + i < 256 := by omega
  have h2 : (0xFFFFFFFF#32).getLsbD i = true := by
    interval_cases i <;> decide
  have h3 : ¬ 224 - 32 * j.val + i < 224 - 32 * j.val := by omega
  have h4 : i < 256 := by omega
  simp [h1, h2, h3, h4]

/-- The other words keep their bits (R47). -/
theorem scalarWord_setScalarWord_other (v : Scalar) {j k : Fin 8} (hjk : k ≠ j) (w : Word) :
    scalarWord (setScalarWord v j w) k = scalarWord v k := by
  apply BitVec.eq_of_getLsbD_eq
  intro i hi
  have hj := j.isLt
  have hk := k.isLt
  have hne : k.val ≠ j.val := fun h => hjk (Fin.ext h)
  simp only [scalarWord, setScalarWord, BitVec.getLsbD_extractLsb', BitVec.getLsbD_or, BitVec.getLsbD_and,
    BitVec.getLsbD_not, BitVec.getLsbD_shiftLeft, BitVec.getLsbD_setWidth, hi, decide_true, Bool.true_and]
  have h1 : 224 - 32 * k.val + i < 256 := by omega
  rcases Nat.lt_or_ge (224 - 32 * k.val + i) (224 - 32 * j.val) with h | h
  · simp [h, h1]
  · have h3 : ¬ 224 - 32 * k.val + i < 224 - 32 * j.val := by omega
    have h4 : 32 ≤ 224 - 32 * k.val + i - (224 - 32 * j.val) := by omega
    simp [h3, h1, BitVec.getLsbD_of_ge _ _ h4]

/-- A second write of a word replaces the first. -/
theorem setScalarWord_setScalarWord (v : Scalar) (j : Fin 8) (w : Word) :
    setScalarWord (setScalarWord v j w) j w = setScalarWord v j w := by
  apply BitVec.eq_of_getLsbD_eq
  intro i hi
  simp only [setScalarWord, BitVec.getLsbD_or, BitVec.getLsbD_and, BitVec.getLsbD_not]
  cases v.getLsbD i <;> cases ((0xFFFFFFFF#32).setWidth 256 <<< (224 - 32 * j.val)).getLsbD i <;>
    cases (w.setWidth 256 <<< (224 - 32 * j.val)).getLsbD i <;> simp [hi]

end Sys2Proof.Machine
end

