-- ==== Sys2Proof/Laws/State.lean ====
section
/-! SUPPORT. One lemma per field for each named update of the state, so that no later proof unfolds a record update. -/

namespace Sys2Proof.Machine

variable (s : State)

/-! ## retire -/

@[simp] theorem retire_s0 (c : BitVec 4) : (s.retire c).s0 = s.s0 := rfl
@[simp] theorem retire_s1 (c : BitVec 4) : (s.retire c).s1 = s.s1 := rfl
@[simp] theorem retire_s2 (c : BitVec 4) : (s.retire c).s2 = s.s2 := rfl
@[simp] theorem retire_s3 (c : BitVec 4) : (s.retire c).s3 = s.s3 := rfl
@[simp] theorem retire_p1 (c : BitVec 4) : (s.retire c).p1 = s.p1 := rfl
@[simp] theorem retire_p2 (c : BitVec 4) : (s.retire c).p2 = s.p2 := rfl
@[simp] theorem retire_p3 (c : BitVec 4) : (s.retire c).p3 = s.p3 := rfl
@[simp] theorem retire_ebuf (c : BitVec 4) : (s.retire c).ebuf = s.ebuf := rfl
@[simp] theorem retire_elen (c : BitVec 4) : (s.retire c).elen = s.elen := rfl
@[simp] theorem retire_busy (c : BitVec 4) : (s.retire c).busy = false := rfl
@[simp] theorem retire_done (c : BitVec 4) : (s.retire c).done = true := rfl
@[simp] theorem retire_err (c : BitVec 4) : (s.retire c).err = (c != 0) := rfl
@[simp] theorem retire_ovr (c : BitVec 4) : (s.retire c).ovr = s.ovr := rfl
@[simp] theorem retire_errcode (c : BitVec 4) : (s.retire c).errcode = c := rfl
@[simp] theorem retire_ie (c : BitVec 4) : (s.retire c).ie = s.ie := rfl
@[simp] theorem retire_lastcmd (c : BitVec 4) : (s.retire c).lastcmd = s.pendingWord := rfl
@[simp] theorem retire_cmdq (c : BitVec 4) : (s.retire c).cmdq = none := rfl
@[simp] theorem retire_inbox (c : BitVec 4) : (s.retire c).inbox = s.inbox := rfl
@[simp] theorem retire_hostReads (c : BitVec 4) : (s.retire c).hostReads = s.hostReads := rfl

/-! ## raise -/

@[simp] theorem raise_s0 (e : CmdError) : (s.raise e).s0 = s.s0 := rfl
@[simp] theorem raise_s1 (e : CmdError) : (s.raise e).s1 = s.s1 := rfl
@[simp] theorem raise_s2 (e : CmdError) : (s.raise e).s2 = s.s2 := rfl
@[simp] theorem raise_s3 (e : CmdError) : (s.raise e).s3 = s.s3 := rfl
@[simp] theorem raise_p1 (e : CmdError) : (s.raise e).p1 = s.p1 := rfl
@[simp] theorem raise_p2 (e : CmdError) : (s.raise e).p2 = s.p2 := rfl
@[simp] theorem raise_p3 (e : CmdError) : (s.raise e).p3 = s.p3 := rfl
@[simp] theorem raise_ebuf (e : CmdError) : (s.raise e).ebuf = s.ebuf := rfl
@[simp] theorem raise_elen (e : CmdError) : (s.raise e).elen = s.elen := rfl
@[simp] theorem raise_busy (e : CmdError) : (s.raise e).busy = false := rfl
@[simp] theorem raise_done (e : CmdError) : (s.raise e).done = true := rfl
@[simp] theorem raise_err (e : CmdError) : (s.raise e).err = (e.code != 0) := rfl
@[simp] theorem raise_ovr (e : CmdError) : (s.raise e).ovr = s.ovr := rfl
@[simp] theorem raise_errcode (e : CmdError) : (s.raise e).errcode = e.code := rfl
@[simp] theorem raise_ie (e : CmdError) : (s.raise e).ie = s.ie := rfl
@[simp] theorem raise_lastcmd (e : CmdError) : (s.raise e).lastcmd = s.pendingWord := rfl
@[simp] theorem raise_cmdq (e : CmdError) : (s.raise e).cmdq = none := rfl
@[simp] theorem raise_inbox (e : CmdError) : (s.raise e).inbox = s.inbox := rfl
@[simp] theorem raise_hostReads (e : CmdError) : (s.raise e).hostReads = s.hostReads := rfl

/-! ## issue -/

@[simp] theorem issue_s0 (w : Word) : (s.issue w).s0 = s.s0 := rfl
@[simp] theorem issue_s1 (w : Word) : (s.issue w).s1 = s.s1 := rfl
@[simp] theorem issue_s2 (w : Word) : (s.issue w).s2 = s.s2 := rfl
@[simp] theorem issue_s3 (w : Word) : (s.issue w).s3 = s.s3 := rfl
@[simp] theorem issue_p1 (w : Word) : (s.issue w).p1 = s.p1 := rfl
@[simp] theorem issue_p2 (w : Word) : (s.issue w).p2 = s.p2 := rfl
@[simp] theorem issue_p3 (w : Word) : (s.issue w).p3 = s.p3 := rfl
@[simp] theorem issue_ebuf (w : Word) : (s.issue w).ebuf = s.ebuf := rfl
@[simp] theorem issue_elen (w : Word) : (s.issue w).elen = s.elen := rfl
@[simp] theorem issue_busy (w : Word) : (s.issue w).busy = true := rfl
@[simp] theorem issue_done (w : Word) : (s.issue w).done = false := rfl
@[simp] theorem issue_err (w : Word) : (s.issue w).err = false := rfl
@[simp] theorem issue_ovr (w : Word) : (s.issue w).ovr = s.ovr := rfl
@[simp] theorem issue_errcode (w : Word) : (s.issue w).errcode = 0 := rfl
@[simp] theorem issue_ie (w : Word) : (s.issue w).ie = s.ie := rfl
@[simp] theorem issue_lastcmd (w : Word) : (s.issue w).lastcmd = s.lastcmd := rfl
@[simp] theorem issue_cmdq (w : Word) : (s.issue w).cmdq = some w := rfl
@[simp] theorem issue_inbox (w : Word) : (s.issue w).inbox = s.inbox := rfl
@[simp] theorem issue_hostReads (w : Word) : (s.issue w).hostReads = s.hostReads := rfl

/-! ## clrStat -/

@[simp] theorem clrStat_s0 : (s.clrStat).s0 = s.s0 := rfl
@[simp] theorem clrStat_s1 : (s.clrStat).s1 = s.s1 := rfl
@[simp] theorem clrStat_s2 : (s.clrStat).s2 = s.s2 := rfl
@[simp] theorem clrStat_s3 : (s.clrStat).s3 = s.s3 := rfl
@[simp] theorem clrStat_p1 : (s.clrStat).p1 = s.p1 := rfl
@[simp] theorem clrStat_p2 : (s.clrStat).p2 = s.p2 := rfl
@[simp] theorem clrStat_p3 : (s.clrStat).p3 = s.p3 := rfl
@[simp] theorem clrStat_ebuf : (s.clrStat).ebuf = s.ebuf := rfl
@[simp] theorem clrStat_elen : (s.clrStat).elen = s.elen := rfl
@[simp] theorem clrStat_busy : (s.clrStat).busy = s.busy := rfl
@[simp] theorem clrStat_done : (s.clrStat).done = false := rfl
@[simp] theorem clrStat_err : (s.clrStat).err = false := rfl
@[simp] theorem clrStat_ovr : (s.clrStat).ovr = false := rfl
@[simp] theorem clrStat_errcode : (s.clrStat).errcode = 0 := rfl
@[simp] theorem clrStat_ie : (s.clrStat).ie = s.ie := rfl
@[simp] theorem clrStat_lastcmd : (s.clrStat).lastcmd = s.lastcmd := rfl
@[simp] theorem clrStat_cmdq : (s.clrStat).cmdq = s.cmdq := rfl
@[simp] theorem clrStat_inbox : (s.clrStat).inbox = s.inbox := rfl
@[simp] theorem clrStat_hostReads : (s.clrStat).hostReads = s.hostReads := rfl

/-! ## scrub -/

@[simp] theorem scrub_s0 : (s.scrub).s0 = 0 := rfl
@[simp] theorem scrub_s1 : (s.scrub).s1 = 0 := rfl
@[simp] theorem scrub_s2 : (s.scrub).s2 = 0 := rfl
@[simp] theorem scrub_s3 : (s.scrub).s3 = 0 := rfl
@[simp] theorem scrub_p1 : (s.scrub).p1 = .empty := rfl
@[simp] theorem scrub_p2 : (s.scrub).p2 = .empty := rfl
@[simp] theorem scrub_p3 : (s.scrub).p3 = .empty := rfl
@[simp] theorem scrub_ebuf : (s.scrub).ebuf = Vector.replicate 65 0 := rfl
@[simp] theorem scrub_elen : (s.scrub).elen = 0 := rfl
@[simp] theorem scrub_busy : (s.scrub).busy = s.busy := rfl
@[simp] theorem scrub_done : (s.scrub).done = s.done := rfl
@[simp] theorem scrub_err : (s.scrub).err = s.err := rfl
@[simp] theorem scrub_ovr : (s.scrub).ovr = s.ovr := rfl
@[simp] theorem scrub_errcode : (s.scrub).errcode = s.errcode := rfl
@[simp] theorem scrub_ie : (s.scrub).ie = s.ie := rfl
@[simp] theorem scrub_lastcmd : (s.scrub).lastcmd = s.lastcmd := rfl
@[simp] theorem scrub_cmdq : (s.scrub).cmdq = s.cmdq := rfl
@[simp] theorem scrub_inbox : (s.scrub).inbox = s.inbox := rfl
@[simp] theorem scrub_hostReads : (s.scrub).hostReads = s.hostReads := rfl

/-! ## takeReset -/

@[simp] theorem takeReset_s0 : (s.takeReset).s0 = State.reset.s0 := rfl
@[simp] theorem takeReset_s1 : (s.takeReset).s1 = State.reset.s1 := rfl
@[simp] theorem takeReset_s2 : (s.takeReset).s2 = State.reset.s2 := rfl
@[simp] theorem takeReset_s3 : (s.takeReset).s3 = State.reset.s3 := rfl
@[simp] theorem takeReset_p1 : (s.takeReset).p1 = State.reset.p1 := rfl
@[simp] theorem takeReset_p2 : (s.takeReset).p2 = State.reset.p2 := rfl
@[simp] theorem takeReset_p3 : (s.takeReset).p3 = State.reset.p3 := rfl
@[simp] theorem takeReset_ebuf : (s.takeReset).ebuf = State.reset.ebuf := rfl
@[simp] theorem takeReset_elen : (s.takeReset).elen = State.reset.elen := rfl
@[simp] theorem takeReset_busy : (s.takeReset).busy = State.reset.busy := rfl
@[simp] theorem takeReset_done : (s.takeReset).done = State.reset.done := rfl
@[simp] theorem takeReset_err : (s.takeReset).err = State.reset.err := rfl
@[simp] theorem takeReset_ovr : (s.takeReset).ovr = State.reset.ovr := rfl
@[simp] theorem takeReset_errcode : (s.takeReset).errcode = State.reset.errcode := rfl
@[simp] theorem takeReset_ie : (s.takeReset).ie = State.reset.ie := rfl
@[simp] theorem takeReset_lastcmd : (s.takeReset).lastcmd = State.reset.lastcmd := rfl
@[simp] theorem takeReset_cmdq : (s.takeReset).cmdq = State.reset.cmdq := rfl
@[simp] theorem takeReset_inbox : (s.takeReset).inbox = s.inbox := rfl
@[simp] theorem takeReset_hostReads : (s.takeReset).hostReads = s.hostReads := rfl

/-! ## setEbufWord -/

@[simp] theorem setEbufWord_s0 (j : Fin 17) (w : Word) : (s.setEbufWord j w).s0 = s.s0 := rfl
@[simp] theorem setEbufWord_s1 (j : Fin 17) (w : Word) : (s.setEbufWord j w).s1 = s.s1 := rfl
@[simp] theorem setEbufWord_s2 (j : Fin 17) (w : Word) : (s.setEbufWord j w).s2 = s.s2 := rfl
@[simp] theorem setEbufWord_s3 (j : Fin 17) (w : Word) : (s.setEbufWord j w).s3 = s.s3 := rfl
@[simp] theorem setEbufWord_p1 (j : Fin 17) (w : Word) : (s.setEbufWord j w).p1 = s.p1 := rfl
@[simp] theorem setEbufWord_p2 (j : Fin 17) (w : Word) : (s.setEbufWord j w).p2 = s.p2 := rfl
@[simp] theorem setEbufWord_p3 (j : Fin 17) (w : Word) : (s.setEbufWord j w).p3 = s.p3 := rfl
@[simp] theorem setEbufWord_elen (j : Fin 17) (w : Word) : (s.setEbufWord j w).elen = s.elen := rfl
@[simp] theorem setEbufWord_busy (j : Fin 17) (w : Word) : (s.setEbufWord j w).busy = s.busy := rfl
@[simp] theorem setEbufWord_done (j : Fin 17) (w : Word) : (s.setEbufWord j w).done = s.done := rfl
@[simp] theorem setEbufWord_err (j : Fin 17) (w : Word) : (s.setEbufWord j w).err = s.err := rfl
@[simp] theorem setEbufWord_ovr (j : Fin 17) (w : Word) : (s.setEbufWord j w).ovr = s.ovr := rfl
@[simp] theorem setEbufWord_errcode (j : Fin 17) (w : Word) : (s.setEbufWord j w).errcode = s.errcode := rfl
@[simp] theorem setEbufWord_ie (j : Fin 17) (w : Word) : (s.setEbufWord j w).ie = s.ie := rfl
@[simp] theorem setEbufWord_lastcmd (j : Fin 17) (w : Word) : (s.setEbufWord j w).lastcmd = s.lastcmd := rfl
@[simp] theorem setEbufWord_cmdq (j : Fin 17) (w : Word) : (s.setEbufWord j w).cmdq = s.cmdq := rfl
@[simp] theorem setEbufWord_inbox (j : Fin 17) (w : Word) : (s.setEbufWord j w).inbox = s.inbox := rfl
@[simp] theorem setEbufWord_hostReads (j : Fin 17) (w : Word) : (s.setEbufWord j w).hostReads = s.hostReads := rfl

/-! ## writeS -/

@[simp] theorem writeS_p1 (i : SReg) (v : Scalar) : (s.writeS i v).p1 = s.p1 := by cases i <;> rfl
@[simp] theorem writeS_p2 (i : SReg) (v : Scalar) : (s.writeS i v).p2 = s.p2 := by cases i <;> rfl
@[simp] theorem writeS_p3 (i : SReg) (v : Scalar) : (s.writeS i v).p3 = s.p3 := by cases i <;> rfl
@[simp] theorem writeS_ebuf (i : SReg) (v : Scalar) : (s.writeS i v).ebuf = s.ebuf := by cases i <;> rfl
@[simp] theorem writeS_elen (i : SReg) (v : Scalar) : (s.writeS i v).elen = s.elen := by cases i <;> rfl
@[simp] theorem writeS_busy (i : SReg) (v : Scalar) : (s.writeS i v).busy = s.busy := by cases i <;> rfl
@[simp] theorem writeS_done (i : SReg) (v : Scalar) : (s.writeS i v).done = s.done := by cases i <;> rfl
@[simp] theorem writeS_err (i : SReg) (v : Scalar) : (s.writeS i v).err = s.err := by cases i <;> rfl
@[simp] theorem writeS_ovr (i : SReg) (v : Scalar) : (s.writeS i v).ovr = s.ovr := by cases i <;> rfl
@[simp] theorem writeS_errcode (i : SReg) (v : Scalar) : (s.writeS i v).errcode = s.errcode := by cases i <;> rfl
@[simp] theorem writeS_ie (i : SReg) (v : Scalar) : (s.writeS i v).ie = s.ie := by cases i <;> rfl
@[simp] theorem writeS_lastcmd (i : SReg) (v : Scalar) : (s.writeS i v).lastcmd = s.lastcmd := by cases i <;> rfl
@[simp] theorem writeS_cmdq (i : SReg) (v : Scalar) : (s.writeS i v).cmdq = s.cmdq := by cases i <;> rfl
@[simp] theorem writeS_inbox (i : SReg) (v : Scalar) : (s.writeS i v).inbox = s.inbox := by cases i <;> rfl
@[simp] theorem writeS_hostReads (i : SReg) (v : Scalar) : (s.writeS i v).hostReads = s.hostReads := by cases i <;> rfl

/-! ## writeP -/

@[simp] theorem writeP_s0 (i : PReg) (Q : Config.CurvePoint) : (s.writeP i Q).s0 = s.s0 := by cases i <;> rfl
@[simp] theorem writeP_s1 (i : PReg) (Q : Config.CurvePoint) : (s.writeP i Q).s1 = s.s1 := by cases i <;> rfl
@[simp] theorem writeP_s2 (i : PReg) (Q : Config.CurvePoint) : (s.writeP i Q).s2 = s.s2 := by cases i <;> rfl
@[simp] theorem writeP_s3 (i : PReg) (Q : Config.CurvePoint) : (s.writeP i Q).s3 = s.s3 := by cases i <;> rfl
@[simp] theorem writeP_ebuf (i : PReg) (Q : Config.CurvePoint) : (s.writeP i Q).ebuf = s.ebuf := by cases i <;> rfl
@[simp] theorem writeP_elen (i : PReg) (Q : Config.CurvePoint) : (s.writeP i Q).elen = s.elen := by cases i <;> rfl
@[simp] theorem writeP_busy (i : PReg) (Q : Config.CurvePoint) : (s.writeP i Q).busy = s.busy := by cases i <;> rfl
@[simp] theorem writeP_done (i : PReg) (Q : Config.CurvePoint) : (s.writeP i Q).done = s.done := by cases i <;> rfl
@[simp] theorem writeP_err (i : PReg) (Q : Config.CurvePoint) : (s.writeP i Q).err = s.err := by cases i <;> rfl
@[simp] theorem writeP_ovr (i : PReg) (Q : Config.CurvePoint) : (s.writeP i Q).ovr = s.ovr := by cases i <;> rfl
@[simp] theorem writeP_errcode (i : PReg) (Q : Config.CurvePoint) : (s.writeP i Q).errcode = s.errcode := by cases i <;> rfl
@[simp] theorem writeP_ie (i : PReg) (Q : Config.CurvePoint) : (s.writeP i Q).ie = s.ie := by cases i <;> rfl
@[simp] theorem writeP_lastcmd (i : PReg) (Q : Config.CurvePoint) : (s.writeP i Q).lastcmd = s.lastcmd := by cases i <;> rfl
@[simp] theorem writeP_cmdq (i : PReg) (Q : Config.CurvePoint) : (s.writeP i Q).cmdq = s.cmdq := by cases i <;> rfl
@[simp] theorem writeP_inbox (i : PReg) (Q : Config.CurvePoint) : (s.writeP i Q).inbox = s.inbox := by cases i <;> rfl
@[simp] theorem writeP_hostReads (i : PReg) (Q : Config.CurvePoint) : (s.writeP i Q).hostReads = s.hostReads := by cases i <;> rfl

/-! ## writeCtrl -/

@[simp] theorem writeCtrl_busy (w : Word) : (s.writeCtrl w).busy = s.busy := by
  unfold State.writeCtrl; split <;> split <;> rfl
@[simp] theorem writeCtrl_cmdq (w : Word) : (s.writeCtrl w).cmdq = s.cmdq := by
  unfold State.writeCtrl; split <;> split <;> rfl
@[simp] theorem writeCtrl_lastcmd (w : Word) : (s.writeCtrl w).lastcmd = s.lastcmd := by
  unfold State.writeCtrl; split <;> split <;> rfl
@[simp] theorem writeCtrl_ie (w : Word) : (s.writeCtrl w).ie = w.getLsbD 0 := by
  unfold State.writeCtrl; split <;> split <;> rfl
@[simp] theorem writeCtrl_inbox (w : Word) : (s.writeCtrl w).inbox = s.inbox := by
  unfold State.writeCtrl; split <;> split <;> rfl
@[simp] theorem writeCtrl_hostReads (w : Word) : (s.writeCtrl w).hostReads = s.hostReads := by
  unfold State.writeCtrl; split <;> split <;> rfl

end Sys2Proof.Machine
end

