-- ==== Sys2Proof/Laws/Registers.lean ====
section
/-! SUPPORT. Reads of the register files after each update: the read-after-write laws (R9) and what each shared
operation leaves alone. -/

namespace Sys2Proof.Machine

open Sys2Proof.Config (CurvePoint)

variable (s : State)

/-! ## Read after write -/

/-- A scalar register reads back what was written. -/
@[simp] theorem readS_writeS_same (i : SReg) (v : Scalar) : (s.writeS i v).readS i = v := by
  cases i <;> rfl

/-- A write leaves the other scalar registers alone. -/
theorem readS_writeS_other {i r : SReg} (h : r ≠ i) (v : Scalar) : (s.writeS i v).readS r = s.readS r := by
  cases i <;> cases r <;> first | rfl | exact absurd rfl h

/-- A writable point register reads back what was written. -/
theorem readP_writeP_same {i : PReg} (h : i.isDest = true) (Q : CurvePoint) :
    (s.writeP i Q).readP i = .point Q := by
  cases i <;> first | rfl | cases h

/-- A write leaves the other point registers alone. -/
theorem readP_writeP_other {i r : PReg} (h : r ≠ i) (Q : CurvePoint) : (s.writeP i Q).readP r = s.readP r := by
  cases i <;> cases r <;> first | rfl | exact absurd rfl h

@[simp] theorem readP_p0 : s.readP .p0 = .point Config.G := rfl

@[simp] theorem writeP_p0 (Q : CurvePoint) : s.writeP .p0 Q = s := rfl

/-- Writing a scalar register with its own value changes nothing. -/
@[simp] theorem writeS_readS (i : SReg) : s.writeS i (s.readS i) = s := by cases i <;> rfl

/-- A second write to a scalar register replaces the first. -/
@[simp] theorem writeS_writeS (i : SReg) (v w : Scalar) : (s.writeS i v).writeS i w = s.writeS i w := by
  cases i <;> rfl

/-! ## The other operations -/

@[simp] theorem readP_writeS (i : SReg) (v : Scalar) (r : PReg) : (s.writeS i v).readP r = s.readP r := by
  cases r <;> simp [State.readP]

@[simp] theorem readS_writeP (i : PReg) (Q : CurvePoint) (r : SReg) : (s.writeP i Q).readS r = s.readS r := by
  cases r <;> simp [State.readS]

@[simp] theorem readS_retire (c : BitVec 4) (r : SReg) : (s.retire c).readS r = s.readS r := by cases r <;> rfl

@[simp] theorem readP_retire (c : BitVec 4) (r : PReg) : (s.retire c).readP r = s.readP r := by cases r <;> rfl

@[simp] theorem readS_raise (e : CmdError) (r : SReg) : (s.raise e).readS r = s.readS r := by cases r <;> rfl

@[simp] theorem readP_raise (e : CmdError) (r : PReg) : (s.raise e).readP r = s.readP r := by cases r <;> rfl

@[simp] theorem readS_issue (w : Word) (r : SReg) : (s.issue w).readS r = s.readS r := by cases r <;> rfl

@[simp] theorem readP_issue (w : Word) (r : PReg) : (s.issue w).readP r = s.readP r := by cases r <;> rfl

@[simp] theorem readS_scrub (r : SReg) : s.scrub.readS r = 0 := by cases r <;> rfl

/-- SCRUB empties every point register but the hardwired one (R22). -/
theorem readP_scrub {r : PReg} (h : r.isDest = true) : s.scrub.readP r = .empty := by
  cases r <;> first | rfl | cases h

/-- A destination is any point register but P0. -/
theorem isDest_iff (r : PReg) : r.isDest = true ↔ r ≠ .p0 := by cases r <;> decide

end Sys2Proof.Machine
end

