-- ==== Sys2Proof/Laws/Completion.lean ====
section
/-! SUPPORT. What a completion can do, said once (R10, R32, R123): it raises an error and changes nothing but the
record of it, or it commits the one destination of its command. Later proofs cite `exec_cases`. -/

namespace Sys2Proof.Machine

open Sys2Proof.Config (CurvePoint)

/-! ## The ways a command ends -/

@[simp] theorem complete_error (s : State) (e : CmdError) : s.complete (.error e) = s.raise e := rfl

@[simp] theorem complete_ok (s t : State) : s.complete (.ok t) = t.retire 0 := rfl

/-- No error has code 0, so ERR tells an error from success (R116). -/
theorem code_ne_zero (e : CmdError) : e.code ≠ 0 := by cases e <;> decide

/-- Error codes are at most 4 (R116). -/
theorem code_le (e : CmdError) : e.code.toNat ≤ 4 := by cases e <;> decide

/-- Two errors with one code are one error (R116). -/
theorem code_inj {e e' : CmdError} (h : e.code = e'.code) : e = e' := by
  cases e <;> cases e' <;> first | rfl | exact absurd h (by decide)

/-- Raising an error changes STATUS, LASTCMD and the latch alone (R123). -/
theorem failed_raise (s : State) (e : CmdError) : Failed s (s.raise e) e where
  ended := ⟨rfl, rfl, by cases e <;> rfl, rfl, rfl, rfl, rfl, fun w h => by simp [State.pendingWord, h]⟩
  scalars r := by simp
  points r := by simp
  encoding := ⟨rfl, rfl⟩
  outside := ⟨rfl, rfl⟩

/-- Retiring a state that differs from `s` in destinations alone ends `s`'s command with success (R32). -/
theorem ended_retire {s t : State} (hovr : t.ovr = s.ovr) (hie : t.ie = s.ie) (hcmdq : t.cmdq = s.cmdq) :
    Ended s (t.retire 0) 0 :=
  ⟨rfl, rfl, rfl, rfl, hovr, hie, rfl, fun w h => by simp [State.pendingWord, hcmdq, h]⟩

/-- Committing a scalar result (R79). -/
theorem wroteScalar_retire (s : State) (d : SReg) (v : Scalar) :
    WroteScalar s ((s.writeS d v).retire 0) d v.toNat where
  ended := ended_retire (by simp) (by simp) (by simp)
  value := by simp
  others r h := by simp [readS_writeS_other s h]
  points r := by simp
  encoding := by simp [SameEncoding]
  outside := by simp [SameOutside]

/-- Committing a point result (R99, R101, R103, R111). -/
theorem wrotePoint_retire (s : State) {d : PReg} (hd : d.isDest = true) (Q : CurvePoint) :
    WrotePoint s ((s.writeP d Q).retire 0) d Q where
  ended := ended_retire (by simp) (by simp) (by simp)
  value := by simp [readP_writeP_same s hd]
  others r h := by simp [readP_writeP_other s h]
  scalars r := by simp
  encoding := by simp [SameEncoding]
  outside := by simp [SameOutside]

/-- Committing an encoding (R107). -/
theorem wroteEncoding_retire (s : State) (e : Vector Byte 65) (len : BitVec 7) :
    WroteEncoding s (({ s with ebuf := e, elen := len } : State).retire 0) e.toList len.toNat where
  ended := ended_retire rfl rfl rfl
  bytes := rfl
  len := rfl
  scalars r := by cases r <;> rfl
  points r := by cases r <;> rfl
  outside := ⟨rfl, rfl⟩

/-! ## Sources and results -/

theorem sourceP_empty {s : State} {i : PReg} (h : s.readP i = .empty) :
    s.sourceP i = .error .invalidPoint := by simp [State.sourceP, h]

theorem sourceP_point {s : State} {i : PReg} {Q : CurvePoint} (h : s.readP i = .point Q) :
    s.sourceP i = .ok Q := by simp [State.sourceP, h]

@[simp] theorem resultP_infinity (s : State) (d : PReg) : s.resultP d .infinity = .error .pointAtInfinity := rfl

@[simp] theorem resultP_affine (s : State) (d : PReg) (P : CurvePoint) :
    s.resultP d (.affine P) = .ok (s.writeP d P) := rfl

theorem withDest_of_isDest {d : PReg} (h : d.isDest = true) (r : Except CmdError State) : withDest d r = r := by
  simp [withDest, h]

@[simp] theorem withDest_p0 (r : Except CmdError State) : withDest .p0 r = .error .invalidCommand := rfl

/-! ## The inversion lemma -/

/-- The pseudocode a command runs (R31). -/
def body : Instr → State → Except CmdError State
  | .sadd d a b, s => saddBody d a b s
  | .pdbl d a, s => withDest d (pdblBody d a s)
  | .padd d a b, s => withDest d (paddBody d a b s)
  | .pmul d a b, s => withDest d (pmulBody d a b s)
  | .pcomp a f, s => pcompBody a f s
  | .pdec d f, s => withDest d (pdecBody d f s)

/-- Every command completes with what its pseudocode ends in. -/
theorem exec_eq (i : Instr) (s : State) : exec i s = .next (s.complete (body i s)) := by cases i <;> rfl

/-- What a command's pseudocode can end in: an error, or its one destination written. -/
def BodyResult (i : Instr) (s : State) (r : Except CmdError State) : Prop :=
  (∃ e, r = .error e) ∨
  (∃ d v, destS i = some d ∧ r = .ok (s.writeS d v)) ∨
  (∃ d Q, destP i = some d ∧ d.isDest = true ∧ r = .ok (s.writeP d Q)) ∨
  (∃ e n, writesEncoding i = true ∧ r = .ok { s with ebuf := e, elen := n })

/-- A point result is an error or a write of the destination. -/
theorem resultP_cases (s : State) (d : PReg) (R : GroupElt) :
    (∃ e, s.resultP d R = .error e) ∨ ∃ Q, s.resultP d R = .ok (s.writeP d Q) := by
  cases R with
  | infinity => exact .inl ⟨_, rfl⟩
  | affine P => exact .inr ⟨P, rfl⟩

/-- A guarded point body is an error or a write of a destination that is not P0. -/
theorem withDest_cases {i : Instr} {d : PReg} {s : State} {r : Except CmdError State} (hd : destP i = some d)
    (h : (∃ e, r = .error e) ∨ ∃ Q, r = .ok (s.writeP d Q)) : BodyResult i s (withDest d r) := by
  cases hdest : d.isDest with
  | false => exact .inl ⟨_, by rw [withDest, hdest]; rfl⟩
  | true =>
    rw [withDest_of_isDest hdest]
    rcases h with h | ⟨Q, h⟩
    · exact .inl h
    · exact .inr (.inr (.inl ⟨d, Q, hd, hdest, h⟩))

/-- Every command's pseudocode ends in an error or in its one destination written. -/
theorem body_cases (i : Instr) (s : State) : BodyResult i s (body i s) := by
  cases i with
  | sadd d a b =>
    simp only [body, saddBody]
    split
    · exact .inl ⟨_, rfl⟩
    · exact .inr (.inl ⟨d, _, rfl, rfl⟩)
  | pdbl d a =>
    refine withDest_cases rfl ?_
    simp only [pdblBody]
    split
    · exact .inl ⟨_, rfl⟩
    · exact resultP_cases ..
  | padd d a b =>
    refine withDest_cases rfl ?_
    simp only [paddBody]
    split
    · exact .inl ⟨_, rfl⟩
    · split
      · exact .inl ⟨_, rfl⟩
      · exact resultP_cases ..
  | pmul d a b =>
    refine withDest_cases rfl ?_
    simp only [pmulBody]
    split
    · exact .inl ⟨_, rfl⟩
    · exact resultP_cases ..
  | pcomp a f =>
    simp only [body, pcompBody]
    split
    · exact .inl ⟨_, rfl⟩
    · exact .inr (.inr (.inr ⟨_, _, rfl, rfl⟩))
  | pdec d f =>
    refine withDest_cases rfl ?_
    simp only [pdecBody]
    split
    · exact .inl ⟨_, rfl⟩
    · split
      · exact .inl ⟨_, rfl⟩
      · exact .inr ⟨_, rfl⟩

/-- Everything a command's completion can do: fail, or write its one destination. -/
theorem exec_cases (i : Instr) (s : State) : ∃ t, exec i s = .next t ∧
    ((∃ e, t = s.raise e ∧ body i s = .error e) ∨
      (∃ d v, destS i = some d ∧ t = (s.writeS d v).retire 0) ∨
      (∃ d Q, destP i = some d ∧ d.isDest = true ∧ t = (s.writeP d Q).retire 0) ∨
      (∃ e n, writesEncoding i = true ∧ t = ({ s with ebuf := e, elen := n } : State).retire 0)) := by
  refine ⟨_, exec_eq i s, ?_⟩
  rcases body_cases i s with ⟨e, h⟩ | ⟨d, v, hd, h⟩ | ⟨d, Q, hd, hdest, h⟩ | ⟨e, n, hw, h⟩
  · exact .inl ⟨e, by rw [h, complete_error], h⟩
  · exact .inr (.inl ⟨d, v, hd, by rw [h, complete_ok]⟩)
  · exact .inr (.inr (.inl ⟨d, Q, hd, hdest, by rw [h, complete_ok]⟩))
  · exact .inr (.inr (.inr ⟨e, n, hw, by rw [h, complete_ok]⟩))

/-- A command whose pseudocode ends in an error fails with it. -/
theorem exec_failed {i : Instr} {s : State} {e : CmdError} (h : body i s = .error e) :
    ∃ t, exec i s = .next t ∧ Failed s t e :=
  ⟨s.raise e, by rw [exec_eq, h, complete_error], failed_raise s e⟩

/-- A command whose pseudocode writes a point register succeeds with it. -/
theorem exec_wrotePoint {i : Instr} {s : State} {d : PReg} {Q : CurvePoint} (hd : d.isDest = true)
    (h : body i s = .ok (s.writeP d Q)) : ∃ t, exec i s = .next t ∧ WrotePoint s t d Q :=
  ⟨_, by rw [exec_eq, h, complete_ok], wrotePoint_retire s hd Q⟩

end Sys2Proof.Machine
end

