-- ==== Sys2Proof/Laws/Bus.lean ====
section
/-! SUPPORT. The register map, the access primitives and one host access, each said once (R45, R46), and what one
step can do. -/

namespace Sys2Proof.Machine

/-! ## The register map (R46) -/

/-- Word `j` of a scalar window (R47). -/
theorem regAt_scalar (i : SReg) (j : Fin 8) :
    regAt (0x100 + 0x20 * i.bits.toNat + 4 * j.val) = .scalar i j := by
  cases i <;> fin_cases j <;> decide +kernel

/-- Word `j` of the EBUF window (R48). -/
theorem regAt_ebuf (j : Fin 17) : regAt (0x200 + 4 * j.val) = .ebuf j := by
  fin_cases j <;> decide +kernel

/-- The reserved ranges (R26). -/
theorem regAt_reserved {off : Nat}
    (h : (0x018 ≤ off ∧ off ≤ 0x0FF) ∨ (0x180 ≤ off ∧ off ≤ 0x1FF) ∨ (0x244 ≤ off ∧ off ≤ 0x3FF)) :
    regAt off = .reserved := by
  unfold regAt
  repeat' split
  all_goals first | rfl | omega

/-- A CTRL write comes only from CTRL's offset. -/
theorem regAt_eq_ctrl {off : Nat} (h : regAt off = .ctrl) : off = 0x00C := by
  unfold regAt at h
  repeat' split at h
  all_goals first | assumption | cases h

/-- A CMD write comes only from CMD's offset. -/
theorem regAt_eq_cmd {off : Nat} (h : regAt off = .cmd) : off = 0x004 := by
  unfold regAt at h
  repeat' split at h
  all_goals first | assumption | cases h

/-! ## Access primitives (R45) -/

theorem regWrite_busy {s : State} (h : s.busy = true) (off : Nat) (w : Word) :
    s.regWrite off w = { s with ovr := true } := by simp [State.regWrite, h]

theorem regWrite_idle {s : State} (h : s.busy = false) (off : Nat) (w : Word) :
    s.regWrite off w = s.writeReg (regAt off) w := by simp [State.regWrite, h]

/-- A register reads the same in two states that agree on what that register shows. -/
theorem readReg_congr {s t : State} (r : Reg) (hstatus : r = .status → t.statusWord = s.statusWord)
    (hie : r = .ctrl → t.ie = s.ie) (helen : r = .elen → t.elen = s.elen)
    (hlast : r = .lastcmd → t.lastcmd = s.lastcmd) (hS : ∀ i j, r = .scalar i j → t.readS i = s.readS i)
    (hebuf : ∀ j, r = .ebuf j → t.ebuf = s.ebuf) : t.readReg r = s.readReg r := by
  cases r with
  | id => rfl
  | cmd => rfl
  | status => exact hstatus rfl
  | ctrl => simp [State.readReg, State.ctrlWord, hie rfl]
  | elen => simp [State.readReg, State.elenWord, helen rfl]
  | lastcmd => exact hlast rfl
  | scalar i j => simp [State.readReg, hS i j rfl]
  | ebuf j => simp [State.readReg, State.ebufWord, State.ebufByte, hebuf j rfl]
  | reserved => rfl

/-! ## One host access (R44, R45) -/

/-- An access reaches the CORE when it covers a byte of the register space (R40, R45). -/
theorem reaches_iff (a : Access) : a.reaches = true ↔ 0 < a.off + a.width.bytes ∧ a.off < 0x400 := by
  simp only [Access.reaches, Bool.and_eq_true, decide_eq_true_eq]
  rfl

/-- A defined access inside the register space is a read or a write (R45). -/
theorem hostAccess_defined (s : State) (off : Nat) (kind : AccessKind) (h4 : off % 4 = 0) (hlt : off < 0x400) :
    s.hostAccess { off := off, width := .bits32, kind := kind } =
      match kind with
      | .read => .next { s with hostReads := s.regRead off :: s.hostReads }
      | .write w => .next (s.regWrite off w) := by
  have hr : Access.reaches { off := off, width := .bits32, kind := kind } = true := by
    rw [reaches_iff]
    simp only [AccessWidth.bytes]
    omega
  have h4' : ((off : Nat) : Int) % 4 = 0 := by omega
  unfold State.hostAccess
  rw [if_pos hr, if_pos rfl, if_pos h4']
  cases kind <;> simp

/-- Everything an access that does not fault can do: nothing, a read, or a write (R45). -/
theorem hostAccess_cases {s t : State} {a : Access} (h : s.hostAccess a = .next t) :
    t = s ∨
    (∃ off : Nat, a = { off := off, width := .bits32, kind := .read } ∧ off % 4 = 0 ∧ off < 0x400 ∧
      t = { s with hostReads := s.regRead off :: s.hostReads }) ∨
    (∃ (off : Nat) (w : Word), a = { off := off, width := .bits32, kind := .write w } ∧ off % 4 = 0 ∧
      off < 0x400 ∧ t = s.regWrite off w) := by
  obtain ⟨o, width, kind⟩ := a
  unfold State.hostAccess at h
  by_cases hr : Access.reaches ⟨o, width, kind⟩ = true
  · rw [if_pos hr] at h
    by_cases hw : width = .bits32
    · subst hw
      rw [if_pos rfl] at h
      by_cases h4 : o % 4 = 0
      · rw [if_pos h4] at h
        rw [reaches_iff] at hr
        simp only [AccessWidth.bytes] at hr
        obtain ⟨off, rfl⟩ := Int.eq_ofNat_of_zero_le (a := o) (by omega)
        cases kind with
        | read =>
          simp only [Int.toNat_natCast, Host.Outcome.next.injEq] at h
          exact .inr (.inl ⟨off, rfl, by omega, by omega, h.symm⟩)
        | write w =>
          simp only [Int.toNat_natCast, Host.Outcome.next.injEq] at h
          exact .inr (.inr ⟨off, w, rfl, by omega, by omega, h.symm⟩)
      · rw [if_neg h4] at h
        cases h
    · rw [if_neg hw] at h
      cases h
  · rw [if_neg hr] at h
    exact .inl (by simpa using h.symm)

/-! ## One step (R15, R31, R53, R137) -/

/-- The core's turn taken, with a command pending or not. -/
theorem step_coreNext {s : State} (h : coreNext s.inbox) : step s = coreTurn { s with inbox := s.inbox.tail } := by
  unfold step
  rcases h with h | h
  · simp [h]
    congr 1
    cases s
    simp_all
  · split <;> simp_all

/-- Everything a step can do: the completion of the pending command, nothing at all, a host access, or a reset. -/
theorem step_cases {s t : State} (h : step s = .next t) :
    (∃ w, coreNext s.inbox ∧ s.cmdq = some w ∧ completion w { s with inbox := s.inbox.tail } = .next t) ∨
    (coreNext s.inbox ∧ s.cmdq = none ∧ t = { s with inbox := s.inbox.tail }) ∨
    (∃ a rest, s.inbox = .host a :: rest ∧ State.hostAccess { s with inbox := rest } a = .next t) ∨
    (∃ lost rest, s.inbox = .reset lost :: rest ∧ t = State.takeReset { s with inbox := rest }) := by
  have core (hc : coreNext s.inbox) :
      (∃ w, coreNext s.inbox ∧ s.cmdq = some w ∧ completion w { s with inbox := s.inbox.tail } = .next t) ∨
      (coreNext s.inbox ∧ s.cmdq = none ∧ t = { s with inbox := s.inbox.tail }) := by
    rw [step_coreNext hc] at h
    unfold coreTurn at h
    cases hq : s.cmdq with
    | some w => exact .inl ⟨w, hc, rfl, by simpa [hq] using h⟩
    | none => exact .inr ⟨hc, rfl, by simpa [hq] using h.symm⟩
  cases hi : s.inbox with
  | nil => rcases core (.inl hi) with h | h <;> simp_all
  | cons e rest =>
    cases e with
    | core => rcases core (.inr (by rw [hi]; rfl)) with h | h <;> simp_all
    | host a => exact .inr (.inr (.inl ⟨a, rest, rfl, by simpa [step, hi] using h⟩))
    | reset lost => exact .inr (.inr (.inr ⟨lost, rest, rfl, by simpa [step, hi] using h.symm⟩))

/-- A latched word that decodes completes as its command. -/
theorem completion_ok {w : Word} {i : Instr} (h : decode w = .ok i) (s : State) : completion w s = exec i s := by
  simp [completion, h]

/-- A latched word that does not decode completes with InvalidCommand (R69, R71). -/
theorem completion_error {w : Word} {e : DecodeError} (h : decode w = .error e) (s : State) :
    completion w s = .next (s.raise .invalidCommand) := by
  simp [completion, h]

end Sys2Proof.Machine
end

