-- ==== Sys2Proof/Laws/Primes.lean ====
section
/-! SUPPORT. What `powMod` computes, and that p and n are prime (R87): Lucas certificates, each prime of a
certificate with a certificate of its own. -/

namespace Sys2Proof.Machine

-- One declaration at a time: many kernel evaluations at once ask for more threads than the memory limit allows.
set_option Elab.async false

/-- Squaring computes the power, for an exponent of at most `fuel` bits. -/
theorem powModAux_eq (fuel b e m : Nat) (h : e < 2 ^ fuel) : powModAux fuel b e m = b ^ e % m := by
  induction fuel generalizing e with
  | zero =>
    obtain rfl : e = 0 := by simpa using h
    simp [powModAux]
  | succ fuel ih =>
    have hlt : e / 2 < 2 ^ fuel := by rw [Nat.div_lt_iff_lt_mul (by decide)]; rwa [pow_succ] at h
    have hsq : b ^ (e / 2) % m * (b ^ (e / 2) % m) % m = b ^ (e / 2 * 2) % m := by
      rw [← Nat.mul_mod, ← pow_add, ← Nat.mul_two]
    simp only [powModAux, ih _ hlt, hsq]
    split
    · rw [Nat.mod_mul_mod, ← pow_succ, show e / 2 * 2 + 1 = e by omega]
    · rw [show e / 2 * 2 = e by omega]

/-- `powMod b e m` is b^e mod m. -/
theorem powMod_eq (b e m : Nat) : powMod b e m = b ^ e % m := by
  rw [powMod, powModAux_eq]
  exact Nat.lt_log2_self

/-- A number with a primitive root is prime: the factors of m - 1 are listed with their multiplicity. -/
theorem prime_of_cert {m : Nat} (a : Nat) (factors : List Nat) (hm : 1 < m) (hprod : factors.prod = m - 1)
    (hprime : ∀ q ∈ factors, q.Prime) (hone : powMod a (m - 1) m = 1)
    (hne : ∀ q ∈ factors, powMod a ((m - 1) / q) m ≠ 1) : m.Prime := by
  have hcast (e : Nat) : (a : ZMod m) ^ e = ((powMod a e m : Nat) : ZMod m) := by
    rw [powMod_eq, ZMod.natCast_mod, Nat.cast_pow]
  have hinj (e : Nat) : (a : ZMod m) ^ e = 1 ↔ powMod a e m = 1 := by
    rw [hcast, ← Nat.cast_one, ZMod.natCast_eq_natCast_iff', Nat.mod_eq_of_lt hm, powMod_eq, Nat.mod_mod]
  refine lucas_primality m (a : ZMod m) ((hinj _).mpr hone) fun q hq hdvd => ?_
  rw [Ne, hinj]
  obtain ⟨r, hr, hqr⟩ := (hq.prime.dvd_prod_iff).mp (hprod ▸ hdvd)
  rw [(Nat.prime_dvd_prime_iff_eq hq (hprime r hr)).mp hqr]
  exact hne r hr

theorem prime_107590001 : Nat.Prime 107590001 :=
  prime_of_cert 3 [2, 2, 2, 2, 5, 5, 5, 5, 7, 29, 53] (by decide) (by decide) (by
    simp only [List.mem_cons, List.not_mem_nil, or_false]
    rintro q (rfl | rfl | rfl | rfl | rfl | rfl | rfl | rfl | rfl | rfl | rfl)
    all_goals norm_num)
    (by decide +kernel) (by decide +kernel)

theorem prime_255515944373 : Nat.Prime 255515944373312847190720520512484175977 :=
  prime_of_cert 3 [2, 2, 2, 7, 7, 11, 1627, 2657, 4423, 41201, 96557, 7240687, 107590001] (by decide) (by decide) (by
    simp only [List.mem_cons, List.not_mem_nil, or_false]
    rintro q (rfl | rfl | rfl | rfl | rfl | rfl | rfl | rfl | rfl | rfl | rfl | rfl | rfl)
    all_goals first | exact prime_107590001 | norm_num)
    (by decide +kernel) (by decide +kernel)

theorem prime_13331831 : Nat.Prime 13331831 :=
  prime_of_cert 13 [2, 5, 971, 1373] (by decide) (by decide) (by
    simp only [List.mem_cons, List.not_mem_nil, or_false]
    rintro q (rfl | rfl | rfl | rfl)
    all_goals norm_num)
    (by decide +kernel) (by decide +kernel)

theorem prime_173378833005 : Nat.Prime 173378833005251801 :=
  prime_of_cert 6 [2, 2, 2, 5, 5, 2621, 24809, 13331831] (by decide) (by decide) (by
    simp only [List.mem_cons, List.not_mem_nil, or_false]
    rintro q (rfl | rfl | rfl | rfl | rfl | rfl | rfl | rfl)
    all_goals first | exact prime_13331831 | norm_num)
    (by decide +kernel) (by decide +kernel)

theorem prime_221494926740 : Nat.Prime 22149492674086928081353 :=
  prime_of_cert 5 [2, 2, 2, 3, 5323, 173378833005251801] (by decide) (by decide) (by
    simp only [List.mem_cons, List.not_mem_nil, or_false]
    rintro q (rfl | rfl | rfl | rfl | rfl | rfl)
    all_goals first | exact prime_173378833005 | norm_num)
    (by decide +kernel) (by decide +kernel)

theorem prime_132896956044 : Nat.Prime 132896956044521568488119 :=
  prime_of_cert 6 [2, 3, 22149492674086928081353] (by decide) (by decide) (by
    simp only [List.mem_cons, List.not_mem_nil, or_false]
    rintro q (rfl | rfl | rfl)
    all_goals first | exact prime_221494926740 | norm_num)
    (by decide +kernel) (by decide +kernel)

theorem prime_205115282021 : Nat.Prime 205115282021455665897114700593932402728804164701536103180137503955397371 :=
  prime_of_cert 10 [2, 3, 5, 29, 29, 31, 7723, 132896956044521568488119, 255515944373312847190720520512484175977] (by decide) (by decide) (by
    simp only [List.mem_cons, List.not_mem_nil, or_false]
    rintro q (rfl | rfl | rfl | rfl | rfl | rfl | rfl | rfl | rfl)
    all_goals first | exact prime_132896956044 | exact prime_255515944373 | norm_num)
    (by decide +kernel) (by decide +kernel)

/-- The field prime is prime (R87, R89). -/
theorem prime_p : Nat.Prime Config.p :=
  prime_of_cert 3 [2, 3, 7, 13441, 205115282021455665897114700593932402728804164701536103180137503955397371] (by decide) (by decide) (by
    simp only [List.mem_cons, List.not_mem_nil, or_false]
    rintro q (rfl | rfl | rfl | rfl | rfl)
    all_goals first | exact prime_205115282021 | norm_num)
    (by decide +kernel) (by decide +kernel)

theorem prime_44706919 : Nat.Prime 44706919 :=
  prime_of_cert 6 [2, 3, 797, 9349] (by decide) (by decide) (by
    simp only [List.mem_cons, List.not_mem_nil, or_false]
    rintro q (rfl | rfl | rfl | rfl)
    all_goals norm_num)
    (by decide +kernel) (by decide +kernel)

theorem prime_174723607534 : Nat.Prime 174723607534414371449 :=
  prime_of_cert 3 [2, 2, 2, 17, 59, 4051, 120233, 44706919] (by decide) (by decide) (by
    simp only [List.mem_cons, List.not_mem_nil, or_false]
    rintro q (rfl | rfl | rfl | rfl | rfl | rfl | rfl | rfl)
    all_goals first | exact prime_44706919 | norm_num)
    (by decide +kernel) (by decide +kernel)

theorem prime_107361793816 : Nat.Prime 107361793816595537 :=
  prime_of_cert 3 [2, 2, 2, 2, 16699, 85831, 4681609] (by decide) (by decide) (by
    simp only [List.mem_cons, List.not_mem_nil, or_false]
    rintro q (rfl | rfl | rfl | rfl | rfl | rfl | rfl)
    all_goals norm_num)
    (by decide +kernel) (by decide +kernel)

theorem prime_297159362677 : Nat.Prime 297159362677 :=
  prime_of_cert 2 [2, 2, 3, 3, 11, 461, 1627771] (by decide) (by decide) (by
    simp only [List.mem_cons, List.not_mem_nil, or_false]
    rintro q (rfl | rfl | rfl | rfl | rfl | rfl | rfl)
    all_goals norm_num)
    (by decide +kernel) (by decide +kernel)

theorem prime_545358713 : Nat.Prime 545358713 :=
  prime_of_cert 5 [2, 2, 2, 41, 59, 28181] (by decide) (by decide) (by
    simp only [List.mem_cons, List.not_mem_nil, or_false]
    rintro q (rfl | rfl | rfl | rfl | rfl | rfl)
    all_goals norm_num)
    (by decide +kernel) (by decide +kernel)

theorem prime_290476118734 : Nat.Prime 29047611873442575647497758179 :=
  prime_of_cert 2 [2, 293, 305873, 545358713, 297159362677] (by decide) (by decide) (by
    simp only [List.mem_cons, List.not_mem_nil, or_false]
    rintro q (rfl | rfl | rfl | rfl | rfl)
    all_goals first | exact prime_545358713 | exact prime_297159362677 | norm_num)
    (by decide +kernel) (by decide +kernel)

theorem prime_341948486974 : Nat.Prime 341948486974166000522343609283189 :=
  prime_of_cert 2 [2, 2, 3, 3, 3, 109, 29047611873442575647497758179] (by decide) (by decide) (by
    simp only [List.mem_cons, List.not_mem_nil, or_false]
    rintro q (rfl | rfl | rfl | rfl | rfl | rfl | rfl)
    all_goals first | exact prime_290476118734 | norm_num)
    (by decide +kernel) (by decide +kernel)

/-- The group order is prime (R87, R90). -/
theorem prime_n : Nat.Prime Config.n :=
  prime_of_cert 7 [2, 2, 2, 2, 2, 2, 3, 149, 631, 107361793816595537, 174723607534414371449, 341948486974166000522343609283189] (by decide) (by decide) (by
    simp only [List.mem_cons, List.not_mem_nil, or_false]
    rintro q (rfl | rfl | rfl | rfl | rfl | rfl | rfl | rfl | rfl | rfl | rfl | rfl)
    all_goals first | exact prime_107361793816 | exact prime_174723607534 | exact prime_341948486974 | norm_num)
    (by decide +kernel) (by decide +kernel)

end Sys2Proof.Machine
end

