-- ==== Sys2Proof/Laws/Field.lean ====
section
/-! SUPPORT. The field operations of the model in the field `ZMod p` of the library: one lemma per operation (R88,
R89, R91, R109). -/

namespace Sys2Proof.Machine

open Sys2Proof.Config (Fp)

/-- p is prime, in the form the library's field takes it. -/
theorem fact_prime_p : Fact (Nat.Prime Config.p) := ⟨prime_p⟩

/-- p is odd and more than 3. -/
theorem three_lt_p : 3 < Config.p := by decide

/-- A field element of the model as an element of `ZMod p`. -/
def fpToZ (x : Fp) : ZMod Config.p := (x.val : ZMod Config.p)

/-- An element of `ZMod p` as a field element of the model. -/
def zToFp (z : ZMod Config.p) : Fp := ⟨z.val % Config.p, Nat.mod_lt _ (by decide)⟩

theorem val_fpToZ (x : Fp) : (fpToZ x).val = x.val := ZMod.val_cast_of_lt x.isLt

@[simp] theorem zToFp_fpToZ (x : Fp) : zToFp (fpToZ x) = x :=
  Fin.ext (by simp [zToFp, val_fpToZ, Nat.mod_eq_of_lt x.isLt])

@[simp] theorem fpToZ_zToFp (z : ZMod Config.p) : fpToZ (zToFp z) = z := by
  have := fact_prime_p
  simp [fpToZ, zToFp]

theorem fpToZ_inj {x y : Fp} : fpToZ x = fpToZ y ↔ x = y :=
  ⟨fun h => by rw [← zToFp_fpToZ x, h, zToFp_fpToZ], fun h => h ▸ rfl⟩

theorem fpToZ_eq_zero {x : Fp} : fpToZ x = 0 ↔ x.val = 0 := by
  have := fact_prime_p
  rw [← ZMod.val_eq_zero, val_fpToZ]

@[simp] theorem fpToZ_add (x y : Fp) : fpToZ (x + y) = fpToZ x + fpToZ y := by
  simp [fpToZ, Fin.val_add]

@[simp] theorem fpToZ_mul (x y : Fp) : fpToZ (x * y) = fpToZ x * fpToZ y := by
  simp [fpToZ, Fin.val_mul]

@[simp] theorem fpToZ_sub (x y : Fp) : fpToZ (x - y) = fpToZ x - fpToZ y := by
  rw [fpToZ, Fin.sub_def]
  simp only [ZMod.natCast_mod, Nat.cast_add, Nat.cast_sub y.isLt.le, CharP.cast_eq_zero, fpToZ]
  ring

@[simp] theorem fpToZ_fneg (x : Fp) : fpToZ (fneg x) = -fpToZ x := by
  simp [fpToZ, fneg, Nat.cast_sub x.isLt.le]

@[simp] theorem fpToZ_fpow (x : Fp) (e : Nat) : fpToZ (fpow x e) = fpToZ x ^ e := by
  simp [fpToZ, fpow, powMod_eq]

@[simp] theorem fpToZ_fdouble (x : Fp) : fpToZ (fdouble x) = 2 * fpToZ x := by
  rw [fdouble, fpToZ_add]; ring

@[simp] theorem fpToZ_ftriple (x : Fp) : fpToZ (ftriple x) = 3 * fpToZ x := by
  rw [ftriple, fpToZ_add, fpToZ_add]; ring

@[simp] theorem fpToZ_b : fpToZ Config.b = 7 := rfl

/-- The model's inverse is the field's (R89). -/
@[simp] theorem fpToZ_finv (x : Fp) : haveI := fact_prime_p; fpToZ (finv x) = (fpToZ x)⁻¹ := by
  have := fact_prime_p
  have hp := three_lt_p
  rw [finv, fpToZ_fpow]
  by_cases h : fpToZ x = 0
  · rw [h, inv_zero, zero_pow (by omega)]
  · refine eq_inv_of_mul_eq_one_left ?_
    rw [← pow_succ, show Config.p - 2 + 1 = Config.p - 1 by omega, ZMod.pow_card_sub_one_eq_one h]

/-- 2 is not 0 in GF(p). -/
theorem two_ne_zero_p : haveI := fact_prime_p; (2 : ZMod Config.p) ≠ 0 := by
  have := fact_prime_p
  have h : ((2 : Nat) : ZMod Config.p) ≠ 0 := by
    rw [Ne, ZMod.natCast_eq_zero_iff]
    exact Nat.not_dvd_of_pos_of_lt (by decide) (by decide)
  simpa using h

/-- A square has the model's square root (R109). -/
theorem fsqrt_mul_self {α β : Fp} (h : β * β = α) : fsqrt α * fsqrt α = α := by
  have := fact_prime_p
  have hp : Config.p % 4 = 3 := by decide
  have h3 := three_lt_p
  rw [← fpToZ_inj, fpToZ_mul, fsqrt, fpToZ_fpow, ← h, fpToZ_mul, ← pow_add, ← sq, ← pow_mul]
  by_cases hz : fpToZ β = 0
  · rw [hz, zero_pow (by omega), zero_pow (by decide)]
  · rw [show 2 * ((Config.p + 1) / 4 + (Config.p + 1) / 4) = (Config.p - 1) + 2 by omega, pow_add,
      ZMod.pow_card_sub_one_eq_one hz, one_mul]

/-- The two square roots of one field element are equal or opposite. -/
theorem eq_or_eq_fneg {β γ : Fp} (h : β * β = γ * γ) : β = γ ∨ β = fneg γ := by
  have := fact_prime_p
  rw [← fpToZ_inj, fpToZ_mul, fpToZ_mul] at h
  rcases mul_self_eq_mul_self_iff.mp h with h | h
  · exact .inl (fpToZ_inj.mp h)
  · exact .inr (fpToZ_inj.mp (by rw [h, fpToZ_fneg]))

@[simp] theorem fneg_mul_fneg (β : Fp) : fneg β * fneg β = β * β := by
  rw [← fpToZ_inj]; simp

/-- A nonzero element and its negative sum to p as integers, so one of them is even and one odd (R106). -/
theorem val_fneg {β : Fp} (h : β.val ≠ 0) : (fneg β).val = Config.p - β.val := by
  have := β.isLt
  simp only [fneg]
  exact Nat.mod_eq_of_lt (by omega)

theorem parity_fneg {β : Fp} (h : β.val ≠ 0) : (fneg β).val % 2 ≠ β.val % 2 := by
  have hp : Config.p % 2 = 1 := by decide
  have := β.isLt
  rw [val_fneg h]
  omega

end Sys2Proof.Machine
end

