-- ==== Sys2Proof/Laws/Curve.lean ====
section
/-! SUPPORT. The model's group elements as the points of the library's elliptic curve y² = x³ + 7 over `ZMod p`
(R90): `ofPoint` is a bijection onto E that takes addition to addition, so every law of the library's group is one
of the model's. -/

namespace Sys2Proof.Machine

open Sys2Proof.Config (Fp CurvePoint)

/-- The curve of R87 in the library's form: a₁ = a₂ = a₃ = a₄ = 0 and a₆ = 7. -/
abbrev curveZ : WeierstrassCurve.Affine (ZMod Config.p) := ⟨0, 0, 0, 0, 7⟩

/-- The curve is nonsingular: its discriminant -2^4 · 3^3 · 7^2 is not 0 modulo p. -/
theorem discriminant_ne_zero : curveZ.Δ ≠ 0 := by
  have := fact_prime_p
  have h : ((21168 : Nat) : ZMod Config.p) ≠ 0 := by
    rw [Ne, ZMod.natCast_eq_zero_iff]
    exact Nat.not_dvd_of_pos_of_lt (by decide) (by decide)
  intro h0
  apply h
  have : curveZ.Δ = -((21168 : Nat) : ZMod Config.p) := by
    simp only [WeierstrassCurve.Δ, WeierstrassCurve.b₂, WeierstrassCurve.b₄, WeierstrassCurve.b₆,
      WeierstrassCurve.b₈]
    push_cast
    ring
  rw [h0] at this
  exact neg_eq_zero.mp this.symm

/-- The curve equation in the library's form (R90). -/
theorem equation_iff_z (x y : ZMod Config.p) : curveZ.Equation x y ↔ y * y = x * x * x + 7 := by
  rw [WeierstrassCurve.Affine.equation_iff]
  constructor <;> intro h <;> linear_combination h

theorem nonsingular_iff_z (x y : ZMod Config.p) : curveZ.Nonsingular x y ↔ y * y = x * x * x + 7 := by
  rw [← curveZ.equation_iff_nonsingular_of_Δ_ne_zero discriminant_ne_zero, equation_iff_z]

/-- A point of the model is on the curve exactly when its image is. -/
theorem onCurve_iff (P : CurvePoint) : onCurve P = true ↔ curveZ.Nonsingular (fpToZ P.x) (fpToZ P.y) := by
  rw [nonsingular_iff_z, onCurve, beq_iff_eq, ← fpToZ_inj]
  simp [curveRhs]

/-- A library point as a group element of the model. -/
def ofPoint : curveZ.Point → GroupElt
  | .zero => .infinity
  | .some x y _ => .affine { x := zToFp x, y := zToFp y }

@[simp] theorem ofPoint_zero : ofPoint 0 = .infinity := rfl

theorem ofPoint_some {x y : ZMod Config.p} (h : curveZ.Nonsingular x y) :
    ofPoint (.some x y h) = .affine { x := zToFp x, y := zToFp y } := rfl

/-- Every library point lands in E. -/
theorem inE_ofPoint (P : curveZ.Point) : (ofPoint P).inE = true := by
  cases P with
  | zero => rfl
  | some x y h =>
    rw [ofPoint_some, GroupElt.inE, onCurve_iff]
    simpa using h

/-- Every element of E is the image of a library point. -/
theorem exists_ofPoint {P : GroupElt} (h : P.inE = true) : ∃ Q, ofPoint Q = P := by
  cases P with
  | infinity => exact ⟨0, rfl⟩
  | affine P =>
    refine ⟨.some _ _ ((onCurve_iff P).mp h), ?_⟩
    simp [ofPoint_some]

theorem ofPoint_injective : Function.Injective ofPoint := by
  intro P Q h
  cases P with
  | zero => cases Q with
    | zero => rfl
    | some x y hxy => cases h
  | some x y hxy => cases Q with
    | zero => cases h
    | some x' y' hxy' =>
      simp only [ofPoint_some, GroupElt.affine.injEq, CurvePoint.mk.injEq] at h
      have hx : x = x' := by rw [← fpToZ_zToFp x, h.1, fpToZ_zToFp]
      have hy : y = y' := by rw [← fpToZ_zToFp y, h.2, fpToZ_zToFp]
      subst hx hy
      rfl

/-- Negation is the library's (R91). -/
theorem ofPoint_neg (P : curveZ.Point) : ofPoint (-P) = (ofPoint P).neg := by
  have := fact_prime_p
  cases P with
  | zero => rfl
  | some x y h =>
    rw [WeierstrassCurve.Affine.Point.neg_some, ofPoint_some, ofPoint_some, GroupElt.neg]
    congr 2
    rw [← fpToZ_inj]
    simp [WeierstrassCurve.Affine.negY]

/-- The third point of a line, in the library's formulas. -/
theorem lineThird_eq (l x1 y1 x2 : Fp) : lineThird l x1 y1 x2 =
    .affine { x := zToFp (curveZ.addX (fpToZ x1) (fpToZ x2) (fpToZ l))
              y := zToFp (curveZ.addY (fpToZ x1) (fpToZ x2) (fpToZ y1) (fpToZ l)) } := by
  rw [lineThird]
  congr 2 <;> rw [← fpToZ_inj] <;>
    simp [WeierstrassCurve.Affine.addX, WeierstrassCurve.Affine.addY, WeierstrassCurve.Affine.negAddY,
      WeierstrassCurve.Affine.negY]
  all_goals ring

/-- Doubling is the library's addition of a point to itself (R93). -/
theorem ofPoint_dbl (P : curveZ.Point) : haveI := fact_prime_p; ofPoint (P + P) = (ofPoint P).dbl := by
  have := fact_prime_p
  cases P with
  | zero => rfl
  | some x y h =>
    rw [ofPoint_some, GroupElt.dbl]
    by_cases hy : y = 0
    · subst hy
      rw [if_pos (by rw [← fpToZ_eq_zero, fpToZ_zToFp]),
        WeierstrassCurve.Affine.Point.add_self_of_Y_eq (by simp [WeierstrassCurve.Affine.negY])]
      rfl
    · have hne : y ≠ curveZ.negY x y := by
        simp only [WeierstrassCurve.Affine.negY]
        intro h
        have h2 : 2 * y = 0 := by linear_combination h
        rcases mul_eq_zero.mp h2 with h2 | h2
        · exact two_ne_zero_p h2
        · exact hy h2
      rw [if_neg (by rwa [← fpToZ_eq_zero, fpToZ_zToFp]),
        WeierstrassCurve.Affine.Point.add_self_of_Y_ne hne, ofPoint_some, lineThird_eq,
        WeierstrassCurve.Affine.slope_of_Y_ne rfl hne]
      simp only [fpToZ_mul, fpToZ_ftriple, fpToZ_finv, fpToZ_fdouble, fpToZ_zToFp]
      have hl : (3 * x ^ 2 + 2 * curveZ.a₂ * x + curveZ.a₄ - curveZ.a₁ * y) / (y - curveZ.negY x y) =
          3 * (x * x) * (2 * y)⁻¹ := by
        rw [div_eq_mul_inv]
        simp only [WeierstrassCurve.Affine.negY]
        ring_nf
      rw [hl]

/-- Addition is the library's (R92). -/
theorem ofPoint_add (P Q : curveZ.Point) :
    haveI := fact_prime_p; ofPoint (P + Q) = (ofPoint P).add (ofPoint Q) := by
  have := fact_prime_p
  cases P with
  | zero =>
    rw [show (WeierstrassCurve.Affine.Point.zero : curveZ.Point) = 0 from rfl, zero_add]
    cases Q <;> rfl
  | some x y h =>
    cases Q with
    | zero =>
      rw [show (WeierstrassCurve.Affine.Point.zero : curveZ.Point) = 0 from rfl, add_zero]
      rfl
    | some x' y' h' =>
      rw [ofPoint_some, ofPoint_some, GroupElt.add]
      have hxx : zToFp x = zToFp x' ↔ x = x' := by rw [← fpToZ_inj, fpToZ_zToFp, fpToZ_zToFp]
      have hyy : (zToFp y + zToFp y').val = 0 ↔ y = curveZ.negY x' y' := by
        rw [← fpToZ_eq_zero, fpToZ_add, fpToZ_zToFp, fpToZ_zToFp]
        simp [WeierstrassCurve.Affine.negY, add_eq_zero_iff_eq_neg]
      by_cases hx : x = x'
      · rw [if_pos (hxx.mpr hx)]
        by_cases hy : y = curveZ.negY x' y'
        · rw [if_pos (hyy.mpr hy), WeierstrassCurve.Affine.Point.add_of_Y_eq hx hy]
          rfl
        · rw [if_neg (fun h => hy (hyy.mp h))]
          have hyeq := WeierstrassCurve.Affine.Y_eq_of_Y_ne
            ((nonsingular_iff_z x y).mp h |> (equation_iff_z x y).mpr)
            ((nonsingular_iff_z x' y').mp h' |> (equation_iff_z x' y').mpr) hx hy
          subst hx hyeq
          exact ofPoint_dbl (.some x y h)
      · rw [if_neg (fun h => hx (hxx.mp h)), WeierstrassCurve.Affine.Point.add_of_X_ne hx, ofPoint_some,
          lineThird_eq, WeierstrassCurve.Affine.slope_of_X_ne hx]
        simp only [fpToZ_mul, fpToZ_finv, fpToZ_sub, fpToZ_zToFp]
        have hl : (y - y') / (x - x') = (y' - y) * (x' - x)⁻¹ := by
          rw [← neg_sub y' y, ← neg_sub x' x, neg_div_neg_eq, div_eq_mul_inv]
        rw [hl]

end Sys2Proof.Machine
end

