-- ==== Sys2Proof/Laws/PerInstr.lean ====
section
/-! SUPPORT. One fact of every command as syntax, made per constructor: its word has every reserved bit 0 (R63, R76). -/

namespace Sys2Proof.Laws.ReservedZero

/-- The bits of RES0, RES1, RES2 and RES3 (R63). -/
def reservedMask : Word := 0xFEFCCC00#32

/-- The word of `i` has every reserved bit 0. -/
def Statement (i : Instr) : Prop := encode i &&& reservedMask = 0

/-- A word put together from its fields has every reserved bit 0. -/
theorem pack_reserved (f : BitVec 1) (b a d : BitVec 2) (op : BitVec 8) : pack f b a d op &&& reservedMask = 0 := by
  apply BitVec.eq_of_getLsbD_eq
  intro i hi
  simp only [pack, reservedMask, BitVec.getLsbD_and, BitVec.getLsbD_append]
  interval_cases i <;> simp

theorem sadd (d a b : SReg) : Statement (.sadd d a b) := pack_reserved ..

theorem pdbl (d a : PReg) : Statement (.pdbl d a) := pack_reserved ..

theorem padd (d a b : PReg) : Statement (.padd d a b) := pack_reserved ..

theorem pmul (d : PReg) (a : SReg) (b : PReg) : Statement (.pmul d a b) := pack_reserved ..

theorem pcomp (a : PReg) (f : PointFormat) : Statement (.pcomp a f) := pack_reserved ..

theorem pdec (d : PReg) (f : PointFormat) : Statement (.pdec d f) := pack_reserved ..

end Sys2Proof.Laws.ReservedZero
end

