-- ==== Sys2Proof/Tests/Slice0.lean ====
section
/-! SUPPORT. The model's own tests: ill-formed terms, words written out bit by bit, one step of each command against
the spec's vectors (95_test_vectors.md), and for every statement that has hypotheses a witness that meets them. -/

namespace Sys2Proof.Tests

-- One declaration at a time: many kernel evaluations at once ask for more threads than the memory limit allows.
set_option Elab.async false

open Sys2Proof Sys2Proof.Machine
open Sys2Proof.Config (Fp CurvePoint)

/-! ## Ill-formed terms and written-out words -/

/-- Each command whose destination is P0 is refused (R64), and one with another destination is not. -/
theorem test_wellFormed_refuses_p0 :
    ¬ (Instr.pdbl .p0 .p1).WellFormed ∧ ¬ (Instr.padd .p0 .p1 .p2).WellFormed ∧
    ¬ (Instr.pmul .p0 .s0 .p1).WellFormed ∧ ¬ (Instr.pdec .p0 .compressed).WellFormed ∧
    (Instr.pdbl .p3 .p0).WellFormed ∧ (Instr.padd .p1 .p0 .p0).WellFormed ∧ (Instr.pmul .p1 .s3 .p0).WellFormed ∧
    (Instr.pdec .p1 .uncompressed).WellFormed ∧ (Instr.sadd .s0 .s0 .s0).WellFormed ∧
    (Instr.pcomp .p0 .compressed).WellFormed := by decide

/-- R68's bit patterns, one word of each command. -/
theorem test_decode_sadd : decode 0b0000000_0_000000_11_00_10_00_01_00000001#32 = .ok (.sadd .s1 .s2 .s3) := by decide

theorem test_decode_pdbl : decode 0b0000000_0_000000_00_00_11_00_10_00000010#32 = .ok (.pdbl .p2 .p3) := by decide

theorem test_decode_padd : decode 0b0000000_0_000000_10_00_01_00_11_00000011#32 = .ok (.padd .p3 .p1 .p2) := by decide

theorem test_decode_pmul : decode 0b0000000_0_000000_11_00_10_00_01_00000100#32 = .ok (.pmul .p1 .s2 .p3) := by decide

theorem test_decode_pcomp :
    decode 0b0000000_0_000000_00_00_10_00_00_00000101#32 = .ok (.pcomp .p2 .compressed) ∧
    decode 0b0000000_1_000000_00_00_00_00_00_00000101#32 = .ok (.pcomp .p0 .uncompressed) := by decide

theorem test_decode_pdec :
    decode 0b0000000_0_000000_00_00_00_00_11_00000110#32 = .ok (.pdec .p3 .compressed) ∧
    decode 0b0000000_1_000000_00_00_00_00_01_00000110#32 = .ok (.pdec .p1 .uncompressed) := by decide

/-- R71's four cases: vectors IF-12 and L3-4, SADD-15, PDEC-23 and PDEC-25, PDBL-5 and PADD-9. -/
theorem test_decode_illegal :
    decode 0x80000001#32 = .error .reservedBit ∧ decode 0x00000007#32 = .error .reservedOpcode ∧
    decode 0x00000000#32 = .error .reservedOpcode ∧ decode 0x01010201#32 = .error .fieldNotZero ∧
    decode 0x00001106#32 = .error .fieldNotZero ∧ decode 0x00010106#32 = .error .fieldNotZero ∧
    decode 0x00000002#32 = .error .destinationP0 ∧ decode 0x00000003#32 = .error .destinationP0 := by decide

/-! ## States the tests use -/

/-- The state an outcome goes on with. -/
def after (o : Host.Outcome State Fault Refusal) : Option State :=
  match o with
  | .next t => some t
  | .fault _ => none
  | .refused _ => none

/-- A register's contents after an outcome, with STATUS. -/
def resultS (o : Host.Outcome State Fault Refusal) (r : SReg) : Option (Scalar × Word) :=
  (after o).map fun t => (t.readS r, t.statusWord)

/-- A point register's contents after an outcome, with STATUS. -/
def resultP (o : Host.Outcome State Fault Refusal) (r : PReg) : Option (PointReg × Word) :=
  (after o).map fun t => (t.readP r, t.statusWord)

/-- A point with the given coordinates. -/
def pt (x y : Nat) : CurvePoint :=
  { x := ⟨x % Config.p, Nat.mod_lt _ (by decide)⟩, y := ⟨y % Config.p, Nat.mod_lt _ (by decide)⟩ }

/-- 2G of 95_test_vectors.md. -/
def g2 : CurvePoint := pt 0xC6047F9441ED7D6D3045406E95C07CD85C778E4B8CEF3CA7ABAC09B95C709EE5
  0x1AE168FEA63DC339A3C58419466CEAEEF7F632653266D0E1236431A950CFE52A

/-- 3G of 95_test_vectors.md. -/
def g3 : CurvePoint := pt 0xF9308A019258C31049344F85F89D5229B531C845836F99B08601F113BCE036F9
  0x388F7B0F632DE8140FE337E62A37F3566500A99934C2231B6CB9FD7584B8E672

/-- 4G of 95_test_vectors.md. -/
def g4 : CurvePoint := pt 0xE493DBF1C10D80F3581E4904930B1404CC6C13900EE0758474FA94ABE8C4CD13
  0x51ED993EA0D455B75642E2098EA51448D967AE33BFBDFE40CFE97BDC47739922

/-- 6G of 95_test_vectors.md. -/
def g6 : CurvePoint := pt 0xFFF97BD5755EEEA420453A14355235D382F6472F8568A18B2F057A1460297556
  0xAE12777AACFBB620F3BE96017F45C560DE80F0F6518FE4A03C870C36B075F297

/-- -G of 95_test_vectors.md. -/
def gNeg : CurvePoint := pt 0x79BE667EF9DCBBAC55A06295CE870B07029BFCDB2DCE28D959F2815B16F81798
  0xB7C52588D95C3B9AA25B0403F1EEF75702E84BB7597AABE663B82F6F04EF2777

/-- X1o of 95_test_vectors.md, whose x is 1 and whose y is odd. -/
def x1o : CurvePoint := pt 1 0xBDE70DF51939B94C9C24979FA7DD04EBD9B3572DA7802290438AF2A681895441

/-- X1e of 95_test_vectors.md, whose x is 1 and whose y is even. -/
def x1e : CurvePoint := pt 1 0x4218F20AE6C646B363DB68605822FB14264CA8D2587FDD6FBC750D587E76A7EE

/-- A pair with y = 0. It lies on no curve of this spec (R96); only a state that no run reaches holds it. -/
def flat : CurvePoint := pt 2 0

/-- Reset with S0, S1 and P1 set. -/
def setup (a b : Nat) (P : PointReg) : State :=
  { State.reset with s0 := BitVec.ofNat 256 a, s1 := BitVec.ofNat 256 b, p1 := P }

/-- Reset with an encoding in EBUF and its length in ELEN. -/
def encoded (len : BitVec 7) (bytes : List Byte) : State :=
  { State.reset with ebuf := Vector.ofFn fun i => bytes.getD i.val 0, elen := len }

/-- Reset with `PDBL P1, G` issued, and events to come. -/
def pending (events : List Event) : State := { State.reset.issue 0x00000102#32 with inbox := events }

/-! ## One step of each command, against the spec's vectors -/

/-- SADD-7: two subtractions of n are needed. -/
theorem test_sadd_reduces_twice :
    resultS (exec (.sadd .s2 .s0 .s1) (setup (2 ^ 256 - 1) (2 ^ 256 - 1) .empty)) .s2
      = some (0x28AA24632A16EBF88805B42E65F937D7C#256, 0x00000002#32) := by decide +kernel

/-- SADD-6: 2n is 0 modulo n, and the destination keeps its value. -/
theorem test_sadd_zero_sum :
    resultS (exec (.sadd .s0 .s0 .s1) (setup Config.n Config.n .empty)) .s0
      = some (BitVec.ofNat 256 Config.n, 0x00000036#32) := by decide +kernel

/-- PDBL-2: in place. -/
theorem test_pdbl_in_place :
    resultP (exec (.pdbl .p1 .p1) (setup 0 0 (.point g2))) .p1 = some (.point g4, 0x00000002#32) := by decide +kernel

/-- PDBL-4: an EMPTY source. -/
theorem test_pdbl_empty :
    resultP (exec (.pdbl .p1 .p3) (setup 0 0 (.point g2))) .p1 = some (.point g2, 0x00000026#32) := by decide +kernel

/-- PADD-1: 2G + G. -/
theorem test_padd_sum :
    resultP (exec (.padd .p2 .p1 .p0) (setup 0 0 (.point g2))) .p2 = some (.point g3, 0x00000002#32) := by
  decide +kernel

/-- PADD-3: -G + G is O, and the destination stays EMPTY. -/
theorem test_padd_inverse :
    resultP (exec (.padd .p2 .p1 .p0) (setup 0 0 (.point gNeg))) .p2 = some (.empty, 0x00000036#32) := by
  decide +kernel

/-- PMUL-10: in place. -/
theorem test_pmul_in_place :
    resultP (exec (.pmul .p1 .s0 .p1) (setup 2 0 (.point g3))) .p1 = some (.point g6, 0x00000002#32) := by
  decide +kernel

/-- PMUL-9: an EMPTY source comes before the zero scalar. -/
theorem test_pmul_empty_before_zero :
    resultP (exec (.pmul .p1 .s0 .p2) (setup 0 0 (.point g3))) .p1 = some (.point g3, 0x00000026#32) := by
  decide +kernel

/-- PCOMP-3: an odd y gives prefix 03. -/
theorem test_pcomp_odd :
    ((after (exec (.pcomp .p1 .compressed) (setup 0 0 (.point gNeg)))).map fun t =>
      (t.ebufByte 0, t.ebufByte 1, t.ebufByte 32, t.ebufByte 33, t.elen, t.statusWord))
      = some (0x03#8, 0x79#8, 0x98#8, 0x00#8, 33#7, 0x00000002#32) := by decide +kernel

/-- PCOMP-5: x = 1 is padded on the left. -/
theorem test_pcomp_padding :
    ((after (exec (.pcomp .p1 .uncompressed) (setup 0 0 (.point x1e)))).map fun t =>
      (t.ebufByte 0, t.ebufByte 1, t.ebufByte 32, t.ebufByte 33, t.ebufByte 64, t.elen))
      = some (0x04#8, 0x00#8, 0x01#8, 0x42#8, 0xEE#8, 65#7) := by decide +kernel

/-- PDEC-5: prefix 03 chooses the odd root. -/
theorem test_pdec_odd :
    resultP (exec (.pdec .p1 .compressed) (encoded 33 (0x03#8 :: int2be 32 1))) .p1
      = some (.point x1o, 0x00000002#32) := by decide +kernel

/-- PDEC-18: x = p + 1 is rejected though x - p is on the curve. -/
theorem test_pdec_range :
    resultP (exec (.pdec .p1 .compressed) (encoded 33 (0x02#8 :: int2be 32 (Config.p + 1)))) .p1
      = some (.empty, 0x00000026#32) := by decide +kernel

/-- IF-9, both orders: the second CMD write comes before the completion, or after it. -/
theorem test_both_latencies :
    ((after (Host.Core.run core 2 (pending [wr 0x004 0x00000203#32, .core]))).map fun t =>
      (t.statusWord, t.lastcmd, t.p2)) = some (0x0000000A#32, 0x00000102#32, .empty) ∧
    ((after (Host.Core.run core 3 (pending [.core, wr 0x004 0x00000203#32, .core]))).map fun t =>
      (t.statusWord, t.lastcmd, t.p2)) = some (0x00000002#32, 0x00000203#32, .point g2) := by decide +kernel

/-- The step that `withFetchWord` prepares runs the word: `SADD S2, S0, S1` on the reset state (SADD-8). -/
theorem test_withFetchWord :
    decodeTableWord 32 0x00010201 = some (.sadd .s2 .s0 .s1) ∧
    ((after (step (State.reset.withFetchWord 32 0x00010201))).map fun t => (t.statusWord, t.lastcmd))
      = some (0x00000036#32, 0x00010201#32) := by decide +kernel

/-! ## Witnesses: encoding -/

theorem witness_DecodeInvertsEncode :
    (Instr.padd .p3 .p2 .p1).WellFormed ∧ encode (.padd .p3 .p2 .p1) = 0x00012303#32 := by decide

theorem witness_EncodeInvertsDecode : decode 0x00012303#32 = .ok (.padd .p3 .p2 .p1) := by decide

theorem witness_IllegalWords : decode 0x01000102#32 = .error .fieldNotZero := by decide

theorem witness_Disassembly :
    decode 0x00001204#32 = .ok (.pmul .p2 .s1 .p0) ∧ decode 0x00000007#32 = .error .reservedOpcode ∧
    (Instr.pmul .p2 .s1 .p0).WellFormed ∧
    assembleWord "pmulg p2, s1 ; the child key".toList = .ok 0x00001204#32 := by decide +kernel

/-! ## Witnesses: steps, issue and the host's accesses -/

/-- Both ways the core can move next: no event left, or its own event first. -/
theorem witness_StepRunsTheDecodedCommand :
    (pending []).cmdq = some 0x00000102#32 ∧ coreNext (pending []).inbox ∧
    (pending [.core, rd 0x008]).cmdq = some 0x00000102#32 ∧ coreNext (pending [.core, rd 0x008]).inbox ∧
    decode 0x00000102#32 = .ok (.pdbl .p1 .p0) :=
  ⟨rfl, .inl rfl, rfl, .inr rfl, by decide⟩

theorem witness_StepCompletesAnIllegalWord :
    (State.reset.issue 0x80000001#32).cmdq = some 0x80000001#32 ∧ coreNext (State.reset.issue 0x80000001#32).inbox ∧
    decode 0x80000001#32 = .error .reservedBit := ⟨rfl, .inl rfl, by decide⟩

/-- The two parts: an idle CMD write of a legal or an illegal word, and a step that starts a command. -/
theorem witness_IssueLatchesTheWord :
    let s : State := { State.reset with inbox := [wr 0x004 0x00000007#32] }
    s.busy = false ∧ s.inbox = wr 0x004 0x00000007#32 :: [] ∧ decode 0x00000007#32 = .error .reservedOpcode ∧
    (∃ t, step s = .next t ∧ t.cmdq = some 0x00000007#32) ∧ s.cmdq ≠ some 0x00000007#32 :=
  ⟨rfl, rfl, by decide, ⟨_, rfl, rfl⟩, by decide⟩

theorem witness_BusyWriteOnlySetsOverrun :
    (pending []).busy = true ∧ 0x000 % 4 = 0 ∧ 0x000 < 0x400 ∧ 0x3FC % 4 = 0 ∧ 0x3FC < 0x400 := by decide

theorem witness_ReadChangesNoRegister :
    0x3FC % 4 = 0 ∧ 0x3FC < 0x400 ∧ (pending []).busy = true ∧ regAt 0x3FC ≠ .status ∧ regAt 0x014 ≠ .status := by
  decide

/-- Just below BASE, just past the space, one byte into it from below, and each kind of access inside it. -/
theorem witness_UndefinedAccessFaults :
    let below : Access := { off := -4, width := .bits32, kind := .read }
    let past : Access := { off := 0x400, width := .bits8, kind := .read }
    let astride : Access := { off := -3, width := .bits32, kind := .read }
    let narrow : Access := { off := 0x3FF, width := .bits8, kind := .write 0 }
    let last : Access := { off := 0x3FC, width := .bits32, kind := .read }
    let first : Access := { off := 0, width := .bits32, kind := .write 1 }
    (below.off + below.width.bytes ≤ 0 ∧ 0x400 ≤ past.off) ∧
    (0 < astride.off + astride.width.bytes ∧ astride.off < 0x400 ∧ astride.off % 4 ≠ 0) ∧
    (0 < narrow.off + narrow.width.bytes ∧ narrow.off < 0x400 ∧ narrow.width ≠ .bits32) ∧
    (0 < last.off + last.width.bytes ∧ last.off < 0x400 ∧ last.width = .bits32 ∧ last.off % 4 = 0 ∧
      last.kind = .read) ∧
    (0 < first.off + first.width.bytes ∧ first.off < 0x400 ∧ first.width = .bits32 ∧ first.off % 4 = 0 ∧
      first.kind = .write 1) := by decide

theorem witness_RegisterSpaceLiesAtBase :
    State.reset.inbox = [] ∧ 0x000 < 0x400 ∧ 0x3FF < 0x400 ∧ Config.base + 0x400 ≤ Config.base + 0x400 :=
  ⟨rfl, by decide, by decide, Nat.le_refl _⟩

theorem witness_ResetDiscardsThePendingCommand :
    (pending [.reset none]).inbox = .reset none :: [] ∧
    (pending [.reset (some { off := 0x004, width := .bits32, kind := .write 1 })]).inbox
      = .reset (some { off := 0x004, width := .bits32, kind := .write 1 }) :: [] := by decide

/-- The first and last word offset of each reserved range, and the words just outside it. -/
theorem witness_ReservedOffsetsReadZero :
    regAt 0x018 = .reserved ∧ regAt 0x0FC = .reserved ∧ regAt 0x180 = .reserved ∧ regAt 0x1FC = .reserved ∧
    regAt 0x244 = .reserved ∧ regAt 0x3FC = .reserved ∧ regAt 0x014 = .lastcmd ∧ regAt 0x100 = .scalar .s0 0 ∧
    regAt 0x17C = .scalar .s3 7 ∧ regAt 0x200 = .ebuf 0 ∧ regAt 0x240 = .ebuf 16 := by decide +kernel

theorem witness_CtrlWriteActions : (pending []).busy = true ∧ State.reset.busy = false := by decide

/-- A length just above 33, and one just below 65. -/
theorem witness_ElenKeepsSevenBits :
    State.reset.busy = false ∧ PReg.p1 ≠ .p0 ∧
    34#32 &&& 0x7F#32 ≠ 33#32 ∧ 34#32 &&& 0x7F#32 ≠ 65#32 ∧
    64#32 &&& 0x7F#32 ≠ 33#32 ∧ 64#32 &&& 0x7F#32 ≠ 65#32 := by decide

theorem witness_ScalarWindowWords : 0 < 8 ∧ 7 < 8 ∧ State.reset.busy = false ∧ 7 ≠ 0 := by decide

theorem witness_EbufWindowWords : 0 ≤ 16 ∧ 16 ≤ 16 ∧ State.reset.busy = false := by decide

theorem witness_WritesAreIdempotent :
    regAt 0x00C ≠ .cmd ∧ regAt 0x100 ≠ .cmd ∧ regAt 0x240 ≠ .cmd ∧ regAt 0x3FC ≠ .cmd := by decide +kernel

/-- A completion with IE = 1 raises irq, and the issue of the next command drops it. -/
theorem witness_InterruptRisesAndFalls :
    let s : State := { State.reset.issue 0x00000007#32 with ie := true }
    (∃ t, s.cmdq = some 0x00000007#32 ∧ completion 0x00000007#32 s = .next t) ∧
    (∃ t, step s = .next t ∧ s.irq = false ∧ t.irq = true) ∧
    (∃ t, State.reset.busy = false ∧
      step { State.reset with ie := true, done := true, inbox := [wr 0x004 0x00000007#32] } = .next t ∧
      State.irq { State.reset with ie := true, done := true, inbox := [wr 0x004 0x00000007#32] } = true ∧
      t.irq = false) := by
  refine ⟨⟨_, rfl, rfl⟩, ⟨_, rfl, rfl, ?_⟩, ⟨_, rfl, rfl, rfl, ?_⟩⟩ <;> decide +kernel

/-! ## Witnesses: SADD -/

theorem witness_SaddAddsModuloN :
    (let s := setup (Config.n - 1) 2 .empty; ((s.readS .s0).toNat + (s.readS .s1).toNat) % Config.n ≠ 0) ∧
    (let s := setup Config.n Config.n .empty; ((s.readS .s0).toNat + (s.readS .s1).toNat) % Config.n = 0) := by
  decide +kernel

theorem witness_SaddIsDeterministic :
    (setup 1 2 .empty).readS .s0 = (setup 2 1 .empty).readS .s1 ∧
    (setup 1 2 .empty).readS .s1 = (setup 2 1 .empty).readS .s0 := by decide

theorem witness_SaddResultLiesBelowN :
    ∃ t, exec (.sadd .s2 .s0 .s1) (setup (Config.n - 1) 2 .empty) = .next t ∧ t.err = false :=
  ⟨_, rfl, by decide +kernel⟩

/-- v at the ends of each of R83's cases: 0, n, 1, n - 1, n + 1 and 2^256 - 1. -/
theorem witness_SaddTestsTheRange :
    SReg.s0 ≠ .s1 ∧ ∀ v ∈ [0, Config.n, 1, Config.n - 1, Config.n + 1, 2 ^ 256 - 1],
      (setup v 0 .empty).readS .s1 = 0 ∧ ((setup v 0 .empty).readS .s0).toNat = v ∧
      (v = 0 ∨ v = Config.n ∨ (0 < v ∧ v < Config.n) ∨ Config.n < v) := by decide +kernel

/-! ## Witnesses: field and group -/

theorem witness_FieldInverse :
    (pt 1 0).x.val ≠ 0 ∧ (finv (pt 2 0).x).val < Config.p ∧ 2 * (finv (pt 2 0).x).val % Config.p = 1 ∧
    g2.x ≠ g3.x ∧ g2.y.val ≠ 0 := by decide +kernel

/-- 1³ + 7 is a square and 5³ + 7 is not (PDEC-4, PDEC-15). -/
theorem witness_FieldSquareRoot :
    let α := curveRhs (pt 1 0).x
    let γ := curveRhs (pt 5 0).x
    fsqrt α * fsqrt α = α ∧ α.val ≠ 0 ∧ fsqrt γ * fsqrt γ ≠ γ := by decide +kernel

theorem witness_GroupLawFollowsTheFormulas :
    onCurve Config.G = true ∧ onCurve gNeg = true ∧ Config.G.x = gNeg.x ∧ g2.x ≠ g3.x ∧
    flat.y.val = 0 ∧ g2.y.val ≠ 0 := by decide +kernel

theorem witness_DoublingNeverGivesInfinity :
    PReg.p1 ≠ .p0 ∧ State.reset.readP .p0 = .point Config.G ∧ onCurve Config.G = true := by decide +kernel

theorem witness_GroupElements :
    GroupElt.inE .infinity = true ∧ GroupElt.inE (.affine Config.G) = true ∧ GroupElt.inE (.affine g2) = true ∧
    GroupElt.inE (.affine g3) = true ∧ GroupElt.affine Config.G ≠ .infinity := by decide +kernel

theorem witness_CurveHasPrimeOrder :
    GroupElt.inE (.affine g2) = true ∧ GroupElt.affine g2 ≠ .infinity ∧ 0 < 1 ∧ 1 < Config.n ∧
    0 < Config.n - 1 ∧ Config.n - 1 < Config.n := by decide +kernel

theorem witness_MulReducesModuloN :
    GroupElt.inE (.affine g2) = true ∧ 1 ≤ 1 ∧ GroupElt.affine g2 ≠ .infinity ∧ Config.n % Config.n = 0 := by
  decide +kernel

/-! ## Witnesses: the point commands -/

/-- An EMPTY source, a finite double, and the pair whose double is O. -/
theorem witness_PdblDoubles :
    PReg.p2 ≠ .p0 ∧ State.reset.readP .p1 = .empty ∧ (setup 0 0 (.point g2)).readP .p1 = .point g2 ∧
    GroupElt.dbl (.affine g2) = .affine g4 ∧ (setup 0 0 (.point flat)).readP .p1 = .point flat ∧
    GroupElt.dbl (.affine flat) = .infinity := by decide +kernel

/-- EMPTY as the first and as the second source, a finite sum, and a sum that is O. -/
theorem witness_PaddAdds :
    PReg.p2 ≠ .p0 ∧ State.reset.readP .p1 = .empty ∧ State.reset.readP .p3 = .empty ∧
    (setup 0 0 (.point g2)).readP .p1 = .point g2 ∧ State.reset.readP .p0 = .point Config.G ∧
    GroupElt.add (.affine g2) (.affine Config.G) = .affine g3 ∧
    (setup 0 0 (.point gNeg)).readP .p1 = .point gNeg ∧
    GroupElt.add (.affine gNeg) (.affine Config.G) = .infinity := by decide +kernel

/-- Every register of reset is valid, so reset meets the invariant. -/
theorem reset_inv : State.reset.Inv where
  points r := by cases r <;> decide +kernel
  busy_iff := by decide
  errcode_le := by decide
  err_iff := by decide
  err_done := by decide
  busy_not_done := by decide

theorem witness_PaddCornerCases :
    PReg.p2 ≠ .p0 ∧ State.reset.readP .p0 = .point Config.G ∧
    (setup 0 0 (.point gNeg)).readP .p1 = .point { x := Config.G.x, y := fneg Config.G.y } ∧ State.reset.Inv :=
  ⟨by decide, rfl, by decide +kernel, reset_inv⟩

/-- k = 0, k = n, k = 1 and k = 2^256 - 1. -/
theorem witness_PmulMultiplies :
    PReg.p2 ≠ .p0 ∧ State.reset.readP .p1 = .empty ∧ State.reset.readP .p0 = .point Config.G ∧
    onCurve Config.G = true ∧ ((setup 0 0 .empty).readS .s0).toNat % Config.n = 0 ∧
    ((setup Config.n 0 .empty).readS .s0).toNat % Config.n = 0 ∧
    ((setup 1 0 .empty).readS .s0).toNat % Config.n ≠ 0 ∧
    ((setup (2 ^ 256 - 1) 0 .empty).readS .s0).toNat % Config.n ≠ 0 := by decide +kernel

theorem witness_PcompEncodes : State.reset.readP .p1 = .empty ∧ State.reset.readP .p0 = .point Config.G := by decide

/-- A length that is wrong for the format, an encoding of a point in each format, and an encoding of none. -/
theorem witness_PdecDecodes :
    PReg.p1 ≠ .p0 ∧ (encoded 34 []).elen.toNat ≠ 33 ∧ (encoded 33 []).elen.toNat = 33 ∧
    (encoded 65 []).elen.toNat = 65 ∧ onCurve x1o = true ∧
    Encodes (encoded 33 (0x03#8 :: int2be 32 1)) .compressed x1o ∧
    Encodes (encoded 65 (0x04#8 :: (int2be 32 x1o.x.val ++ int2be 32 x1o.y.val))) .uncompressed x1o ∧
    ¬ ∃ P, onCurve P = true ∧ Encodes (encoded 33 []) .compressed P := by
  refine ⟨by decide, by decide, by decide, by decide, by decide +kernel, ⟨?_, ?_⟩, ⟨?_, ?_, ?_⟩, ?_⟩
  · decide +kernel
  · show _ = _; decide +kernel
  · decide +kernel
  · decide +kernel
  · decide +kernel
  · rintro ⟨P, -, -, h⟩
    have h0 : ((encoded 33 []).ebufByte 0).toNat = 0 := by decide +kernel
    have h' : ((encoded 33 []).ebufByte 0).toNat = 0x02 + P.y.val % 2 := h
    rw [h0] at h'
    exact absurd h'.symm (Nat.ne_of_gt (Nat.le_trans (by decide) (Nat.le_add_right 2 _)))

theorem witness_ParityPicksOnePoint :
    onCurve x1e = true ∧ onCurve x1o = true ∧ x1e.x = x1o.x ∧ x1e.y.val % 2 = x1e.y.val % 2 := by decide +kernel

/-- The three parts: a point register, a PDEC that succeeds, and two formats. -/
theorem witness_EncodingRoundTrips :
    PReg.p1 ≠ .p0 ∧ State.reset.readP .p0 = .point Config.G ∧ onCurve Config.G = true ∧
    (∃ t, exec (.pdec .p1 .compressed) (encoded 33 (0x03#8 :: int2be 32 1)) = .next t ∧ t.err = false) ∧
    PointFormat.compressed ≠ .uncompressed :=
  ⟨by decide, rfl, by decide +kernel, ⟨_, rfl, by decide +kernel⟩, by decide⟩

/-! ## Witnesses: errors, frames and whole-machine rules -/

theorem witness_HardwiredBasePoint :
    destP (.pdbl .p0 .p1) = some .p0 ∧ destP (.padd .p0 .p1 .p2) = some .p0 ∧
    destP (.pmul .p0 .s0 .p1) = some .p0 ∧ destP (.pdec .p0 .compressed) = some .p0 := by decide

/-- An EMPTY second source, a command with an EMPTY source that reports code 2, and one that is not PDEC. -/
theorem witness_EmptySource :
    (Instr.padd .p1 .p0 .p2).WellFormed ∧ (.p2 ∈ sourcesP (.padd .p1 .p0 .p2)) ∧ State.reset.readP .p2 = .empty ∧
    (∃ t, exec (.padd .p1 .p0 .p2) State.reset = .next t ∧ t.errcode = 2) ∧
    ∀ d f, Instr.padd .p1 .p0 .p2 ≠ .pdec d f :=
  ⟨by decide, by decide, rfl, ⟨_, rfl, by decide⟩, fun _ _ h => by cases h⟩

theorem witness_ErrorTable : State.reset.Inv ∧ PReg.p1 ≠ .p0 := ⟨reset_inv, by decide⟩

theorem witness_ErrorsAreAllOrNothing :
    (State.reset.issue 0x00000106#32).cmdq = some 0x00000106#32 ∧
    (∃ t, completion 0x00000106#32 (State.reset.issue 0x00000106#32) = .next t ∧ t.err = true) ∧
    regAt 0x100 ≠ .status ∧ regAt 0x100 ≠ .lastcmd :=
  ⟨rfl, ⟨_, rfl, by decide⟩, by decide +kernel, by decide +kernel⟩

/-- Each kind of register a command may change, and one it may not. -/
theorem witness_CommandsWriteOnlyTheirDestination :
    destS (.sadd .s2 .s0 .s1) ≠ some .s0 ∧ destP (.pdbl .p1 .p0) ≠ some .p2 ∧
    writesEncoding (.pdec .p1 .compressed) = false ∧ mayChange (.pcomp .p1 .compressed) (regAt 0x100) = false ∧
    mayChange (.sadd .s2 .s0 .s1) (regAt 0x140) = true := by decide +kernel

theorem witness_CommandsReadNoStatus :
    let s : State := State.reset.issue 0x00000102#32
    let s' : State := { State.reset with ie := true, ovr := true, lastcmd := 5 }
    SameScalars s s' ∧ SamePoints s s' ∧ SameEncoding s s' :=
  ⟨fun r => by cases r <;> rfl, fun r => by cases r <;> rfl, rfl, rfl⟩

theorem witness_RetryGivesTheSameError :
    ∃ t, exec (.sadd .s2 .s0 .s1) State.reset = .next t ∧ t.err = true := ⟨_, rfl, by decide +kernel⟩

theorem witness_InvariantKeptByEveryStep :
    State.reset.Inv ∧ ∃ t, step State.reset = .next t := ⟨reset_inv, _, rfl⟩

theorem witness_PendingCommandIsUndisturbed :
    let a : Access := { off := 0x00C, width := .bits32, kind := .write 0x00000007#32 }
    (pending [.host a]).busy = true ∧ (pending [.host a]).inbox = .host a :: [] ∧
    ∃ t, step (pending [.host a]) = .next t := ⟨rfl, rfl, _, rfl⟩

/-- No access before the completion, and one read before it. -/
theorem witness_PendingCommandCompletes :
    let a : Access := { off := 0x008, width := .bits32, kind := .read }
    (pending []).Inv ∧ (pending []).cmdq = some 0x00000102#32 ∧ coreNext [] ∧
    (pending [.host a, .core]).Inv ∧ (pending [.host a, .core]).cmdq = some 0x00000102#32 ∧
    (∀ b ∈ [a], b.defined = true) ∧ (pending [.host a, .core]).inbox = [a].map .host ++ [.core] ∧ coreNext [.core] := by
  have hinv (events : List Event) : (pending events).Inv :=
    { points := fun r => by cases r <;> first | decide +kernel | rfl
      busy_iff := by simp only [pending]; decide
      errcode_le := by simp only [pending]; decide
      err_iff := by simp only [pending]; decide
      err_done := by simp only [pending]; decide
      busy_not_done := by simp only [pending]; decide }
  exact ⟨hinv _, rfl, .inl rfl, hinv _, rfl, by decide, rfl, .inr rfl⟩

theorem witness_IdleCoreDoesNothing : State.reset.cmdq = none ∧ coreNext State.reset.inbox := ⟨rfl, .inl rfl⟩

/-- The first and the last word of the space, with a command's issue still behind the access. -/
theorem witness_StepMakesTheNextAccess :
    let rest := [wr 0x004 0x00000102#32]
    let s (e : Event) : State := { State.reset with inbox := e :: rest }
    (0x000 % 4 = 0 ∧ 0x000 < 0x400 ∧ (s (rd 0x000)).inbox = rd 0x000 :: rest) ∧
    (0x3FC % 4 = 0 ∧ 0x3FC < 0x400 ∧ (s (wr 0x3FC 1)).inbox = wr 0x3FC 1 :: rest) ∧
    (s (rd 0x000)).inbox = .host { off := 0x000, width := .bits32, kind := .read } :: rest := by decide

end Sys2Proof.Tests
end

