-- ==== Sys2Proof/Proofs/Scope.lean ====
section
/-! The register space in the host's address map: the access at a host address, and the accesses that never reach
the CORE (R6, R45, R46). -/

namespace Sys2Proof.Machine

/-- An access that covers no byte of the register space changes nothing (R45). -/
theorem hostAccess_outside (s : State) (a : Access) (h : a.off + a.width.bytes ≤ 0 ∨ 0x400 ≤ a.off) :
    s.hostAccess a = .next s := by
  have hr : ¬ a.reaches = true := by
    rw [reaches_iff]
    omega
  rw [State.hostAccess, if_neg hr]

/-- With nothing else on its way, the access the host makes at an address is the next step, at its offset from BASE. -/
theorem step_arrive {s : State} (hs : s.inbox = []) (addr : Nat) (width : AccessWidth) (kind : AccessKind) :
    step (s.arrive addr width kind) =
      s.hostAccess { off := (addr : Int) - Config.base, width := width, kind := kind } := by
  cases s
  cases hs
  rfl

/-- Settles O15: the step is the access at the address less BASE, and BASE cancels whatever its value. -/
theorem registerSpaceLiesAtBase : Obligations.RegisterSpaceLiesAtBase := by
  intro s width kind hs
  constructor
  · intro off _
    have hoff : ((Config.base + off : Nat) : Int) - Config.base = off := by omega
    rw [step_arrive hs, hoff]
  · intro addr hout
    rw [step_arrive hs]
    apply hostAccess_outside
    dsimp only
    omega

end Sys2Proof.Machine
end

/-! # The registers and one step over all states

What the group law, the two decoders and each command write stays on the curve (R39), what a completion always ends
with (R32) and what it depends on (R37), what a host access can change (R33, R34), and the statements of the family
10_state.md assembled from them. -/

namespace Sys2Proof.Machine

open Sys2Proof.Config (CurvePoint)

/-! ## The group law stays on the curve (R94) -/

/-- Doubling stays in E. -/
theorem inE_dbl {P : GroupElt} (hP : P.inE = true) : P.dbl.inE = true := by
  obtain ⟨P, rfl⟩ := exists_ofPoint hP
  rw [← ofPoint_dbl]
  exact inE_ofPoint _

/-- Addition stays in E. -/
theorem inE_add {P Q : GroupElt} (hP : P.inE = true) (hQ : Q.inE = true) : (P.add Q).inE = true := by
  obtain ⟨P, rfl⟩ := exists_ofPoint hP
  obtain ⟨Q, rfl⟩ := exists_ofPoint hQ
  rw [← ofPoint_add]
  exact inE_ofPoint _

/-- Doubling and adding over the bits of k stays in E. -/
theorem inE_mulAux (fuel k : Nat) {P : GroupElt} (hP : P.inE = true) : (GroupElt.mulAux fuel k P).inE = true := by
  induction fuel generalizing k with
  | zero => rfl
  | succ fuel ih =>
    rw [GroupElt.mulAux]
    split
    · exact inE_add (inE_dbl (ih _)) hP
    · exact inE_dbl (ih _)

/-- Every multiple stays in E. -/
theorem inE_mul (k : Nat) {P : GroupElt} (hP : P.inE = true) : (GroupElt.mul k P).inE = true := inE_mulAux _ _ hP

/-- The base point is on the curve (R87). -/
theorem onCurve_G : onCurve Config.G = true := by decide +kernel

/-! ## What PDEC decodes is on the curve (R111) -/

theorem onCurve_decodeCompressed {s : State} {Q : CurvePoint} (h : decodeCompressed s = .ok Q) :
    onCurve Q = true := by
  unfold decodeCompressed at h
  dsimp only at h
  split at h
  · cases h
  · split at h
    · cases h
    · split at h
      · cases h
      next x _ hroot =>
        have hsquare : fsqrt (curveRhs x) * fsqrt (curveRhs x) = curveRhs x := not_not.mp hroot
        split at h <;> cases h <;> simp [onCurve, hsquare]

theorem onCurve_decodeUncompressed {s : State} {Q : CurvePoint} (h : decodeUncompressed s = .ok Q) :
    onCurve Q = true := by
  unfold decodeUncompressed at h
  split at h
  · cases h
  · split at h
    · split at h
      · cases h
      next hroot => cases h; simpa [onCurve] using hroot
    · cases h

/-! ## Register files that agree -/

/-- Two states with the same P1 to P3 have the same point registers: P0 is hardwired (R18). -/
theorem samePoints_of_fields {s t : State} (h1 : t.p1 = s.p1) (h2 : t.p2 = s.p2) (h3 : t.p3 = s.p3) :
    SamePoints s t := by
  intro r
  cases r with
  | p0 => rfl
  | p1 => exact h1
  | p2 => exact h2
  | p3 => exact h3

/-- Two states with the same S0 to S3 fields have the same scalar registers (R16). -/
theorem sameScalars_of_fields {s t : State} (h0 : t.s0 = s.s0) (h1 : t.s1 = s.s1) (h2 : t.s2 = s.s2)
    (h3 : t.s3 = s.s3) : SameScalars s t := by
  intro r
  cases r with
  | s0 => exact h0
  | s1 => exact h1
  | s2 => exact h2
  | s3 => exact h3

/-! ## Point registers stay valid (R39) -/

/-- Every point register holds EMPTY or a point on the curve: the first clause of the invariant (R39). -/
def PointsValid (s : State) : Prop := ∀ r, (s.readP r).valid = true

theorem pointsValid_of_same {s t : State} (hs : PointsValid s) (h : SamePoints s t) : PointsValid t := by
  intro r
  rw [h r]
  exact hs r

theorem pointsValid_writeP {s : State} (hs : PointsValid s) (d : PReg) {Q : CurvePoint} (hQ : onCurve Q = true) :
    PointsValid (s.writeP d Q) := by
  intro r
  by_cases hr : r = d
  · subst hr
    cases hd : r.isDest with
    | true => rw [readP_writeP_same s hd]; exact hQ
    | false =>
      obtain rfl : r = .p0 := by simpa [hd] using isDest_iff r
      exact hs .p0
  · rw [readP_writeP_other s hr]
    exact hs r

/-- A source register that is not EMPTY gives a point on the curve. -/
theorem onCurve_sourceP {s : State} (hs : PointsValid s) {i : PReg} {Q : CurvePoint} (h : s.sourceP i = .ok Q) :
    onCurve Q = true := by
  have hv := hs i
  unfold State.sourceP at h
  cases hr : s.readP i with
  | empty => simp [hr] at h
  | point P =>
    rw [hr] at h hv
    cases h
    exact hv

/-- A point result in E keeps the point registers valid when it is written. -/
theorem pointsValid_resultP {s t : State} (hs : PointsValid s) {d : PReg} {R : GroupElt} (hR : R.inE = true)
    (h : s.resultP d R = .ok t) : PointsValid t := by
  cases R with
  | infinity => cases h
  | affine P =>
    cases h
    exact pointsValid_writeP hs d hR

/-- A guarded body that succeeds is the body itself. -/
theorem withDest_ok {d : PReg} {r : Except CmdError State} {t : State} (h : withDest d r = .ok t) : r = .ok t := by
  unfold withDest at h
  split at h
  · exact h
  · cases h

/-- Every command that succeeds leaves every point register valid (R39). -/
theorem pointsValid_body {i : Instr} {s t : State} (hs : PointsValid s) (h : body i s = .ok t) : PointsValid t := by
  cases i with
  | sadd d a b =>
    simp only [body, saddBody] at h
    split at h
    · cases h
    · cases h
      exact pointsValid_of_same hs fun r => readP_writeS ..
  | pdbl d a =>
    replace h := withDest_ok h
    unfold pdblBody at h
    split at h
    · cases h
    next Q hQ => exact pointsValid_resultP hs (inE_dbl (P := .affine Q) (onCurve_sourceP hs hQ)) h
  | padd d a b =>
    replace h := withDest_ok h
    unfold paddBody at h
    split at h
    · cases h
    next Q1 hQ1 =>
      split at h
      · cases h
      next Q2 hQ2 =>
        exact pointsValid_resultP hs
          (inE_add (P := .affine Q1) (Q := .affine Q2) (onCurve_sourceP hs hQ1) (onCurve_sourceP hs hQ2)) h
  | pmul d a b =>
    replace h := withDest_ok h
    unfold pmulBody at h
    dsimp only at h
    split at h
    · cases h
    next Q hQ => exact pointsValid_resultP hs (inE_mul _ (P := .affine Q) (onCurve_sourceP hs hQ)) h
  | pcomp a f =>
    simp only [body, pcompBody] at h
    split at h
    · cases h
    · cases h
      exact pointsValid_of_same hs (samePoints_of_fields rfl rfl rfl)
  | pdec d f =>
    replace h := withDest_ok h
    unfold pdecBody at h
    split at h
    · cases h
    · split at h
      · cases h
      next Q hQ =>
        cases h
        refine pointsValid_writeP hs d ?_
        cases f with
        | compressed => exact onCurve_decodeCompressed hQ
        | uncompressed => exact onCurve_decodeUncompressed hQ

/-! ## The invariant through each operation -/

/-- Completing a command establishes the invariant's STATUS clauses, whatever STATUS was (R32). -/
theorem inv_retire {s : State} (hs : PointsValid s) {c : BitVec 4} (hc : c.toNat ≤ 4) : (s.retire c).Inv where
  points := pointsValid_of_same hs fun r => readP_retire ..
  busy_iff := by simp
  errcode_le := hc
  err_iff := by simp
  err_done _ := rfl
  busy_not_done h := by cases h

/-- Whatever word is latched, its completion gives a state that meets the invariant. -/
theorem inv_completion {w : Word} {s t : State} (hs : PointsValid s) (h : completion w s = .next t) : t.Inv := by
  cases hw : decode w with
  | error e =>
    rw [completion_error hw] at h
    cases h
    exact inv_retire hs (code_le _)
  | ok i =>
    rw [completion_ok hw, exec_eq] at h
    cases hb : body i s with
    | error e =>
      rw [hb] at h
      cases h
      exact inv_retire hs (code_le e)
    | ok u =>
      rw [hb] at h
      cases h
      exact inv_retire (pointsValid_body hs hb) (by decide)

/-- The invariant speaks of the point registers, BUSY, DONE, ERR, ERRCODE and the latch alone. -/
theorem inv_of_same {s t : State} (hs : s.Inv) (hpoints : SamePoints s t) (hbusy : t.busy = s.busy)
    (hdone : t.done = s.done) (herr : t.err = s.err) (hcode : t.errcode = s.errcode) (hcmdq : t.cmdq = s.cmdq) :
    t.Inv where
  points := pointsValid_of_same hs.points hpoints
  busy_iff := by rw [hbusy, hcmdq]; exact hs.busy_iff
  errcode_le := by rw [hcode]; exact hs.errcode_le
  err_iff := by rw [herr, hcode]; exact hs.err_iff
  err_done := by rw [herr, hdone]; exact hs.err_done
  busy_not_done := by rw [hbusy, hdone]; exact hs.busy_not_done

/-- Issuing a command keeps the invariant (R30). -/
theorem inv_issue {s : State} (hs : s.Inv) (w : Word) : (s.issue w).Inv where
  points := pointsValid_of_same hs.points fun r => readP_issue ..
  busy_iff := by simp
  errcode_le := by simp
  err_iff := by simp
  err_done h := by cases h
  busy_not_done _ := rfl

/-- CLRSTAT keeps the invariant (R22). -/
theorem inv_clrStat {s : State} (hs : s.Inv) : s.clrStat.Inv where
  points := pointsValid_of_same hs.points (samePoints_of_fields rfl rfl rfl)
  busy_iff := hs.busy_iff
  errcode_le := by simp
  err_iff := by simp
  err_done h := by cases h
  busy_not_done _ := rfl

/-- SCRUB keeps the invariant: it empties every point register but P0 (R22). -/
theorem inv_scrub {s : State} (hs : s.Inv) : s.scrub.Inv where
  points r := by
    cases r with
    | p0 => exact onCurve_G
    | p1 | p2 | p3 => rfl
  busy_iff := hs.busy_iff
  errcode_le := hs.errcode_le
  err_iff := hs.err_iff
  err_done := hs.err_done
  busy_not_done := hs.busy_not_done

/-- A CTRL write keeps the invariant: each of its three actions does (R22). -/
theorem inv_writeCtrl {s : State} (hs : s.Inv) (w : Word) : (s.writeCtrl w).Inv := by
  have hie : ({ s with ie := w.getLsbD 0 } : State).Inv :=
    inv_of_same hs (samePoints_of_fields rfl rfl rfl) rfl rfl rfl rfl rfl
  have hclr (b : Bool) {u : State} (hu : u.Inv) : (if b then u.clrStat else u).Inv := by
    split
    · exact inv_clrStat hu
    · exact hu
  unfold State.writeCtrl
  dsimp only
  split
  · exact inv_scrub (hclr _ hie)
  · exact hclr _ hie

/-- An idle write to any register keeps the invariant. -/
theorem inv_writeReg {s : State} (hs : s.Inv) (r : Reg) (w : Word) : (s.writeReg r w).Inv := by
  cases r with
  | id | status | lastcmd | reserved => exact hs
  | cmd => exact inv_issue hs w
  | ctrl => exact inv_writeCtrl hs w
  | elen | ebuf => exact inv_of_same hs (samePoints_of_fields rfl rfl rfl) rfl rfl rfl rfl rfl
  | scalar i j =>
    exact inv_of_same hs (fun r => readP_writeS ..) (writeS_busy ..) (writeS_done ..) (writeS_err ..)
      (writeS_errcode ..) (writeS_cmdq ..)

/-- A host write, busy or idle, keeps the invariant. -/
theorem inv_regWrite {s : State} (hs : s.Inv) (off : Nat) (w : Word) : (s.regWrite off w).Inv := by
  cases hb : s.busy with
  | true =>
    rw [regWrite_busy hb]
    exact inv_of_same hs (samePoints_of_fields rfl rfl rfl) rfl rfl rfl rfl rfl
  | false =>
    rw [regWrite_idle hb]
    exact inv_writeReg hs _ w

/-- A host access that does not fault keeps the invariant. -/
theorem inv_hostAccess {s t : State} (hs : s.Inv) {a : Access} (h : s.hostAccess a = .next t) : t.Inv := by
  rcases hostAccess_cases h with rfl | ⟨off, -, -, -, rfl⟩ | ⟨off, w, -, -, -, rfl⟩
  · exact hs
  · exact inv_of_same hs (samePoints_of_fields rfl rfl rfl) rfl rfl rfl rfl rfl
  · exact inv_regWrite hs off w

/-- Taking an event off the list keeps the invariant. -/
theorem inv_inbox {s : State} (hs : s.Inv) (events : List Event) : ({ s with inbox := events } : State).Inv :=
  inv_of_same hs (samePoints_of_fields rfl rfl rfl) rfl rfl rfl rfl rfl

/-- Settles O55: at reset the point registers are EMPTY and nothing is pending (R138). -/
theorem invariantAtReset : Obligations.InvariantAtReset where
  points r := by
    cases r with
    | p0 => exact onCurve_G
    | p1 | p2 | p3 => rfl
  busy_iff := by decide
  errcode_le := by decide
  err_iff := by decide
  err_done := by decide
  busy_not_done := by decide

/-- Settles O56: a completion, an idle turn, a host access and a reset each keep the invariant. -/
theorem invariantKeptByEveryStep : Obligations.InvariantKeptByEveryStep := by
  intro s t hs hstep
  rcases step_cases hstep with ⟨w, -, -, h⟩ | ⟨-, -, rfl⟩ | ⟨a, rest, -, h⟩ | ⟨lost, rest, -, rfl⟩
  · exact inv_completion (inv_inbox hs _).points h
  · exact inv_inbox hs _
  · exact inv_hostAccess (inv_inbox hs _) h
  · exact inv_of_same invariantAtReset (samePoints_of_fields rfl rfl rfl) rfl rfl rfl rfl rfl

/-! ## Registers at their offsets (R46) -/

@[simp] theorem regAt_id : regAt 0x000 = .id := rfl
@[simp] theorem regAt_cmd : regAt 0x004 = .cmd := rfl
@[simp] theorem regAt_status : regAt 0x008 = .status := rfl
@[simp] theorem regAt_ctrl : regAt 0x00C = .ctrl := rfl
@[simp] theorem regAt_elen : regAt 0x010 = .elen := rfl
@[simp] theorem regAt_lastcmd : regAt 0x014 = .lastcmd := rfl

/-- A word offset is reserved exactly when it lies in one of R26's ranges. -/
theorem regAt_eq_reserved_iff {off : Nat} (hlt : off < 0x400) (h4 : off % 4 = 0) : regAt off = .reserved ↔
    (0x018 ≤ off ∧ off ≤ 0x0FF) ∨ (0x180 ≤ off ∧ off ≤ 0x1FF) ∨ (0x244 ≤ off ∧ off ≤ 0x3FF) := by
  refine ⟨fun h => ?_, regAt_reserved⟩
  unfold regAt at h
  repeat' split at h
  all_goals cases h
  omega

/-- Registers that ignore an idle write ignore every write, except that a busy one sets OVR (R19, R21, R24, R26,
R33). -/
theorem regWrite_ignored {off : Nat}
    (h : regAt off = .id ∨ regAt off = .status ∨ regAt off = .lastcmd ∨ regAt off = .reserved) (s : State) (w : Word) :
    s.regWrite off w = if s.busy then { s with ovr := true } else s := by
  rcases h with h | h | h | h <;> rw [State.regWrite, h] <;> rfl

/-! ## The words STATUS, CTRL and ELEN read as -/

/-- The bits of the STATUS word (R21). -/
theorem statusWord_bits (s : State) :
    s.statusWord.getLsbD 0 = s.busy ∧ s.statusWord.getLsbD 1 = s.done ∧ s.statusWord.getLsbD 2 = s.err ∧
    s.statusWord.getLsbD 3 = s.ovr ∧ s.statusWord.getLsbD 8 = s.irq := by
  simp only [State.statusWord, BitVec.getLsbD_append]
  simp

/-- ERRCODE in bits 7:4 of the STATUS word (R21). -/
theorem statusWord_errcode (s : State) : s.statusWord.extractLsb' 4 4 = s.errcode := by
  apply BitVec.eq_of_getLsbD_eq
  intro i hi
  simp only [State.statusWord, BitVec.getLsbD_extractLsb', BitVec.getLsbD_append]
  interval_cases i <;> simp

/-- Bits 31:9 of the STATUS word are 0 (R21). -/
theorem statusWord_reserved (s : State) : s.statusWord.extractLsb' 9 23 = 0 := by
  apply BitVec.eq_of_getLsbD_eq
  intro i hi
  simp only [State.statusWord, BitVec.getLsbD_extractLsb', BitVec.getLsbD_append]
  interval_cases i <;> simp

/-- CTRL reads IE alone (R22). -/
theorem ctrlWord_eq (s : State) : s.ctrlWord = if s.ie then 1#32 else 0#32 := by
  unfold State.ctrlWord
  cases s.ie <;> rfl

/-- Seven bits read back with 0 above them are the low seven bits of the word written (R23). -/
theorem append_setWidth_seven (w : Word) : 0#25 ++ w.setWidth 7 = w &&& 0x7F#32 := by
  apply BitVec.eq_of_getLsbD_eq
  intro i hi
  simp only [BitVec.getLsbD_append, BitVec.getLsbD_and, BitVec.getLsbD_setWidth]
  interval_cases i <;> simp

/-! ## A CTRL write (R22) -/

/-- The three actions of a CTRL write, in their order: IE, CLRSTAT, SCRUB. -/
theorem writeCtrl_eq (s : State) (w : Word) : s.writeCtrl w =
    if w.getLsbD 2 then
      (if w.getLsbD 1 then { s with ie := w.getLsbD 0 }.clrStat else { s with ie := w.getLsbD 0 }).scrub
    else if w.getLsbD 1 then { s with ie := w.getLsbD 0 }.clrStat else { s with ie := w.getLsbD 0 } := rfl

/-- CTRL bit 1 runs CLRSTAT. -/
theorem writeCtrl_status_of_clr (s : State) {w : Word} (h : w.getLsbD 1 = true) :
    (s.writeCtrl w).done = false ∧ (s.writeCtrl w).err = false ∧ (s.writeCtrl w).ovr = false ∧
    (s.writeCtrl w).errcode = 0 := by
  rw [writeCtrl_eq, if_pos h]
  split <;> exact ⟨rfl, rfl, rfl, rfl⟩

/-- With CTRL bit 1 clear the STATUS fields stay. -/
theorem writeCtrl_status_of_keep (s : State) {w : Word} (h : ¬ w.getLsbD 1 = true) :
    (s.writeCtrl w).done = s.done ∧ (s.writeCtrl w).err = s.err ∧ (s.writeCtrl w).ovr = s.ovr ∧
    (s.writeCtrl w).errcode = s.errcode := by
  rw [writeCtrl_eq, if_neg h]
  split <;> exact ⟨rfl, rfl, rfl, rfl⟩

/-- CTRL bit 2 runs SCRUB, last of the three actions. -/
theorem writeCtrl_of_scrub (s : State) {w : Word} (h : w.getLsbD 2 = true) : ∃ u : State, s.writeCtrl w = u.scrub := by
  rw [writeCtrl_eq, if_pos h]
  exact ⟨_, rfl⟩

/-- With CTRL bit 2 clear the operand registers stay. -/
theorem writeCtrl_operands_of_keep (s : State) {w : Word} (h : ¬ w.getLsbD 2 = true) :
    SameScalars s (s.writeCtrl w) ∧ SamePoints s (s.writeCtrl w) ∧ SameEncoding s (s.writeCtrl w) := by
  rw [writeCtrl_eq, if_neg h]
  split <;>
    exact ⟨sameScalars_of_fields rfl rfl rfl rfl, samePoints_of_fields rfl rfl rfl, rfl, rfl⟩

/-- DONE after a CTRL write: kept unless CLRSTAT clears it. -/
theorem writeCtrl_done (s : State) (w : Word) : (s.writeCtrl w).done = (s.done && !w.getLsbD 1) := by
  cases h : w.getLsbD 1
  · simpa only [Bool.not_false, Bool.and_true] using (writeCtrl_status_of_keep s (Bool.eq_false_iff.mp h)).1
  · simpa only [Bool.not_true, Bool.and_false] using (writeCtrl_status_of_clr s h).1

/-- SCRUB zeroes every byte of EBUF. -/
theorem ebufByte_scrub (s : State) (k : Nat) : s.scrub.ebufByte k = 0 := by
  unfold State.ebufByte
  split
  · simp
  · rfl

/-! ## What every completion does (R32, R38) -/

/-- The completion of `i` ended `s`'s command and changed no register but `i`'s destination, STATUS and LASTCMD. -/
structure OnlyDestination (i : Instr) (s t : State) : Prop where
  ended : ∃ c, Ended s t c
  scalars : ∀ r, destS i ≠ some r → t.readS r = s.readS r
  points : ∀ r, destP i ≠ some r → t.readP r = s.readP r
  encoding : writesEncoding i = false → SameEncoding s t
  outside : SameOutside s t

/-- Every command completes and writes at most its destination. -/
theorem exec_onlyDestination (i : Instr) (s : State) : ∃ t, exec i s = .next t ∧ OnlyDestination i s t := by
  obtain ⟨t, ht, hcases⟩ := exec_cases i s
  refine ⟨t, ht, ?_⟩
  rcases hcases with ⟨e, rfl, -⟩ | ⟨d, v, hd, rfl⟩ | ⟨d, Q, hd, hdest, rfl⟩ | ⟨e, n, hw, rfl⟩
  · obtain ⟨ended, scalars, points, encoding, outside⟩ := failed_raise s e
    exact ⟨⟨_, ended⟩, fun r _ => scalars r, fun r _ => points r, fun _ => encoding, outside⟩
  · obtain ⟨ended, -, others, points, encoding, outside⟩ := wroteScalar_retire s d v
    exact ⟨⟨_, ended⟩, fun r hr => others r (by rintro rfl; exact hr hd), fun r _ => points r, fun _ => encoding,
      outside⟩
  · obtain ⟨ended, -, others, scalars, encoding, outside⟩ := wrotePoint_retire s hdest Q
    exact ⟨⟨_, ended⟩, fun r _ => scalars r, fun r hr => others r (by rintro rfl; exact hr hd), fun _ => encoding,
      outside⟩
  · obtain ⟨ended, -, -, scalars, points, outside⟩ := wroteEncoding_retire s e n
    exact ⟨⟨_, ended⟩, fun r _ => scalars r, fun r _ => points r, fun h => by simp [hw] at h, outside⟩

/-- A word a command may not change reads as before its completion (R38). -/
theorem OnlyDestination.readReg {i : Instr} {s t : State} (h : OnlyDestination i s t) {r : Reg}
    (hr : mayChange i r = false) : t.readReg r = s.readReg r := by
  obtain ⟨c, ended⟩ := h.ended
  apply readReg_congr
  · rintro rfl; cases hr
  · rintro -; exact ended.ie
  · rintro rfl; exact (h.encoding hr).2
  · rintro rfl; cases hr
  · rintro d j rfl; exact h.scalars d (by simpa [mayChange] using hr)
  · rintro j rfl; exact (h.encoding hr).1

/-- Every completion, of a legal or an illegal word, ends the pending command (R31, R32). -/
theorem completion_ended {w : Word} {s t : State} (h : completion w s = .next t) :
    (∃ c, Ended s t c) ∧ SameOutside s t := by
  cases hw : decode w with
  | error e =>
    rw [completion_error hw] at h
    cases h
    exact ⟨⟨_, (failed_raise s _).ended⟩, (failed_raise s _).outside⟩
  | ok i =>
    obtain ⟨u, hu, honly⟩ := exec_onlyDestination i s
    rw [completion_ok hw, hu] at h
    cases h
    exact ⟨honly.ended, honly.outside⟩

/-! ## What a command reads (R37) -/

/-- S0 to S3, P0 to P3, EBUF and ELEN are the same: all that a command reads. -/
structure SameOperands (s t : State) : Prop where
  scalars : SameScalars s t
  points : SamePoints s t
  encoding : SameEncoding s t

/-- Two bodies ended alike: in the same error, or in states with the same operands. -/
inductive SameResult : Except CmdError State → Except CmdError State → Prop where
  | error (e : CmdError) : SameResult (.error e) (.error e)
  | ok {t t' : State} (h : SameOperands t t') : SameResult (.ok t) (.ok t')

section SameOperands

variable {s s' : State} (h : SameOperands s s')
include h

theorem SameOperands.writeS (d : SReg) (v : Scalar) : SameOperands (s.writeS d v) (s'.writeS d v) where
  scalars r := by
    by_cases hr : r = d
    · rw [hr, readS_writeS_same, readS_writeS_same]
    · rw [readS_writeS_other _ hr, readS_writeS_other _ hr, h.scalars r]
  points r := by rw [readP_writeS, readP_writeS, h.points r]
  encoding := by simpa [SameEncoding] using h.encoding

theorem SameOperands.writeP (d : PReg) (Q : CurvePoint) : SameOperands (s.writeP d Q) (s'.writeP d Q) where
  scalars r := by rw [readS_writeP, readS_writeP, h.scalars r]
  points r := by
    by_cases hr : r = d
    · subst hr
      by_cases hp : r = .p0
      · subst hp; rfl
      · rw [readP_writeP_same _ ((isDest_iff r).mpr hp), readP_writeP_same _ ((isDest_iff r).mpr hp)]
    · rw [readP_writeP_other _ hr, readP_writeP_other _ hr, h.points r]
  encoding := by simpa [SameEncoding] using h.encoding

theorem SameOperands.writeEncoding (e : Vector Byte 65) (n : BitVec 7) :
    SameOperands { s with ebuf := e, elen := n } { s' with ebuf := e, elen := n } where
  scalars r := by have := h.scalars r; cases r <;> exact this
  points r := by have := h.points r; cases r <;> exact this
  encoding := ⟨rfl, rfl⟩

theorem SameOperands.retire (c : BitVec 4) : SameOperands (s.retire c) (s'.retire c) where
  scalars r := by rw [readS_retire, readS_retire, h.scalars r]
  points r := by rw [readP_retire, readP_retire, h.points r]
  encoding := h.encoding

theorem SameOperands.readS (r : SReg) : s'.readS r = s.readS r := h.scalars r

theorem SameOperands.sourceP (i : PReg) : s'.sourceP i = s.sourceP i := by
  unfold State.sourceP
  rw [h.points i]

theorem SameOperands.resultP (d : PReg) (R : GroupElt) : SameResult (s.resultP d R) (s'.resultP d R) := by
  cases R with
  | infinity => exact .error _
  | affine P => exact .ok (h.writeP d P)

theorem SameOperands.decodeCompressed : decodeCompressed s' = decodeCompressed s := by
  unfold Machine.decodeCompressed State.ebufByte State.ebufBytes
  rw [h.encoding.1]

theorem SameOperands.decodeUncompressed : decodeUncompressed s' = decodeUncompressed s := by
  unfold Machine.decodeUncompressed State.ebufByte State.ebufBytes
  rw [h.encoding.1]

/-- A command's pseudocode ends alike from two states with the same operands. -/
theorem SameOperands.body (i : Instr) : SameResult (body i s) (body i s') := by
  have guarded (d : PReg) {r r' : Except CmdError State} (hr : SameResult r r') :
      SameResult (withDest d r) (withDest d r') := by
    unfold withDest
    split
    · exact hr
    · exact .error _
  cases i with
  | sadd d a b =>
    simp only [Machine.body, saddBody, h.readS]
    split
    · exact .error _
    · exact .ok (h.writeS d _)
  | pdbl d a =>
    refine guarded d ?_
    simp only [pdblBody, h.sourceP]
    split
    · exact .error _
    · exact h.resultP d _
  | padd d a b =>
    refine guarded d ?_
    simp only [paddBody, h.sourceP]
    split
    · exact .error _
    · split
      · exact .error _
      · exact h.resultP d _
  | pmul d a b =>
    refine guarded d ?_
    simp only [pmulBody, h.sourceP, h.readS]
    split
    · exact .error _
    · exact h.resultP d _
  | pcomp a f =>
    simp only [Machine.body, pcompBody, h.sourceP]
    split
    · exact .error _
    · exact .ok (h.writeEncoding _ _)
  | pdec d f =>
    refine guarded d ?_
    simp only [pdecBody, h.encoding.2, h.decodeCompressed, h.decodeUncompressed]
    split
    · exact .error _
    · split
      · exact .error _
      · exact .ok (h.writeP d _)

/-- Bodies that ended alike complete with the same operands and the same error record. -/
theorem SameOperands.complete {r r' : Except CmdError State} (hr : SameResult r r') :
    SameOperands (s.complete r) (s'.complete r') ∧ (s.complete r).err = (s'.complete r').err ∧
    (s.complete r).errcode = (s'.complete r').errcode := by
  cases hr with
  | error e => exact ⟨h.retire e.code, rfl, rfl⟩
  | ok ht => exact ⟨ht.retire 0, rfl, rfl⟩

/-- A latched word, legal or not, completes alike from two states with the same operands. -/
theorem SameOperands.completion (w : Word) : ∃ u t, completion w s = .next u ∧ completion w s' = .next t ∧
    SameOperands u t ∧ u.err = t.err ∧ u.errcode = t.errcode := by
  cases hw : decode w with
  | error e => exact ⟨_, _, completion_error hw s, completion_error hw s', h.complete (.error .invalidCommand)⟩
  | ok i =>
    rw [completion_ok hw, completion_ok hw]
    exact ⟨_, _, exec_eq i s, exec_eq i s', h.complete (h.body i)⟩

end SameOperands

/-! ## Host accesses while a command is pending (R33, R34) -/

/-- `s` with only OVR, the host's record of its reads and the events still to come replaced. -/
def State.afterAccesses (s : State) (ovr : Bool) (reads : List Word) (events : List Event) : State :=
  { s with ovr := ovr, hostReads := reads, inbox := events }

theorem sameOperands_afterAccesses (s : State) (ovr : Bool) (reads : List Word) (events : List Event) :
    SameOperands s (s.afterAccesses ovr reads events) :=
  ⟨sameScalars_of_fields rfl rfl rfl rfl, samePoints_of_fields rfl rfl rfl, rfl, rfl⟩

/-- A host access that finds a command pending changes at most OVR and the host's record (R33, R34). -/
theorem hostAccess_busy {s t : State} {a : Access} (hb : s.busy = true) (h : s.hostAccess a = .next t) :
    ∃ ovr reads, t = s.afterAccesses ovr reads s.inbox := by
  rcases hostAccess_cases h with rfl | ⟨off, -, -, -, rfl⟩ | ⟨off, w, -, -, -, rfl⟩
  · exact ⟨t.ovr, t.hostReads, rfl⟩
  · exact ⟨s.ovr, _, rfl⟩
  · exact ⟨true, s.hostReads, regWrite_busy hb off w⟩

/-- A defined access never faults (R44). -/
theorem hostAccess_of_defined {a : Access} (ha : a.defined = true) (s : State) :
    ∃ t, s.hostAccess a = .next t := by
  obtain ⟨hw, h4⟩ : a.width = .bits32 ∧ a.off % 4 = 0 := by simpa [Access.defined] using ha
  unfold State.hostAccess
  rw [if_pos hw, if_pos h4]
  split
  · cases a.kind with
    | read => exact ⟨_, rfl⟩
    | write w => exact ⟨_, rfl⟩
  · exact ⟨s, rfl⟩

/-! ## Steps and runs (R15, R31, R53) -/

/-- With a host access next, the step is that access. -/
theorem step_host {s : State} {a : Access} {rest : List Event} (hi : s.inbox = .host a :: rest) :
    step s = State.hostAccess { s with inbox := rest } a := by
  rw [step, hi]

/-- A step that takes a host access while a command is pending changes at most OVR and what lies outside the CORE. -/
theorem step_host_busy {s t : State} {a : Access} {rest : List Event} (hb : s.busy = true)
    (hi : s.inbox = .host a :: rest) (h : step s = .next t) : ∃ ovr reads, t = s.afterAccesses ovr reads rest := by
  rw [step_host hi] at h
  exact hostAccess_busy (s := { s with inbox := rest }) hb h

/-- With a word latched and the core next, the step is its completion. -/
theorem step_pending {s : State} {w : Word} (hq : s.cmdq = some w) (hc : coreNext s.inbox) :
    step s = completion w { s with inbox := s.inbox.tail } := by
  rw [step_coreNext hc, coreTurn, hq]

/-- A run is its first step and the run of what the step leaves. -/
theorem run_succ {s t : State} (h : step s = .next t) (k : Nat) :
    Host.Core.run core (k + 1) s = Host.Core.run core k t := by
  have hcore : core.step s = .next t := h
  simp only [Host.Core.run, hcore]

/-- After `n` defined host accesses the core's turn completes the pending word, on a state that differs from the
first at most in OVR and what lies outside the CORE. -/
theorem run_pending {w : Word} {rest : List Event} (hc : coreNext rest) (accesses : List Access) {s : State}
    (hb : s.busy = true) (hq : s.cmdq = some w) (hdef : ∀ a ∈ accesses, a.defined = true)
    (hi : s.inbox = accesses.map .host ++ rest) :
    ∃ ovr reads, ∀ t, completion w (s.afterAccesses ovr reads rest.tail) = .next t →
      Host.Core.run core (accesses.length + 1) s = .next t := by
  induction accesses generalizing s with
  | nil =>
    obtain rfl : s.inbox = rest := hi
    refine ⟨s.ovr, s.hostReads, fun t ht => ?_⟩
    have hstep : step s = .next t := by rw [step_pending hq hc]; exact ht
    exact run_succ hstep 0
  | cons a accesses ih =>
    obtain ⟨t, ht⟩ : ∃ t, step s = .next t := by
      rw [step_host hi]
      exact hostAccess_of_defined (hdef a (by simp)) _
    obtain ⟨ovr, reads, rfl⟩ := step_host_busy hb hi ht
    obtain ⟨ovr', reads', hrun⟩ := ih (s := s.afterAccesses ovr reads _) hb hq (fun b hb => hdef b (by simp [hb])) rfl
    exact ⟨ovr', reads', fun u hu => by rw [List.length_cons, run_succ ht]; exact hrun u hu⟩

/-! ## The interrupt level through each step (R35) -/

/-- A completion leaves the level at IE. -/
theorem irq_completion {w : Word} {s t : State} (h : completion w s = .next t) : t.irq = s.ie := by
  obtain ⟨⟨c, ended⟩, -⟩ := completion_ended h
  simp [State.irq, ended.ie, ended.done]

/-- An issue drops the level. -/
theorem irq_issue (s : State) (w : Word) : (s.issue w).irq = false := by simp [State.irq]

/-- A CTRL write sets IE and clears DONE if it runs CLRSTAT. -/
theorem irq_writeCtrl (s : State) (w : Word) :
    (s.writeCtrl w).irq = (w.getLsbD 0 && (s.done && !w.getLsbD 1)) := by
  rw [State.irq, writeCtrl_ie, writeCtrl_done]

/-- No other register's write changes the level. -/
theorem irq_writeReg (s : State) {r : Reg} (hcmd : r ≠ .cmd) (hctrl : r ≠ .ctrl) (w : Word) :
    (s.writeReg r w).irq = s.irq := by
  cases r with
  | cmd => exact absurd rfl hcmd
  | ctrl => exact absurd rfl hctrl
  | scalar i j => simp [State.writeReg, State.irq]
  | id | status | elen | lastcmd | ebuf | reserved => rfl

/-- What a host access makes of the level: nothing, or what a CMD or CTRL write that finds BUSY = 0 makes of it. -/
theorem irq_hostAccess {s t : State} {a : Access} (h : s.hostAccess a = .next t) :
    t.irq = s.irq ∨ (∃ w, Event.host a = wr 0x004 w ∧ t.irq = false) ∨
    ∃ w, Event.host a = wr 0x00C w ∧ t.irq = (w.getLsbD 0 && (s.done && !w.getLsbD 1)) := by
  rcases hostAccess_cases h with rfl | ⟨off, -, -, -, rfl⟩ | ⟨off, w, rfl, -, -, rfl⟩
  · exact .inl rfl
  · exact .inl rfl
  · cases hb : s.busy with
    | true => exact .inl (by rw [regWrite_busy hb]; rfl)
    | false =>
      rw [regWrite_idle hb]
      by_cases hcmd : regAt off = .cmd
      · refine .inr (.inl ⟨w, by rw [regAt_eq_cmd hcmd]; rfl, ?_⟩)
        rw [hcmd]
        exact irq_issue s w
      by_cases hctrl : regAt off = .ctrl
      · refine .inr (.inr ⟨w, by rw [regAt_eq_ctrl hctrl]; rfl, ?_⟩)
        rw [hctrl]
        exact irq_writeCtrl s w
      exact .inl (irq_writeReg s hcmd hctrl w)

/-- Everything one step can make of the level. -/
theorem irq_step {s t : State} (h : step s = .next t) :
    t.irq = s.irq ∨
    (coreNext s.inbox ∧ ∃ w, s.cmdq = some w ∧ t.cmdq = none ∧ t.lastcmd = w ∧ t.irq = s.ie) ∨
    (∃ w rest, s.inbox = wr 0x004 w :: rest ∧ t.irq = false) ∨
    (∃ w rest, s.inbox = wr 0x00C w :: rest ∧ t.irq = (w.getLsbD 0 && (s.done && !w.getLsbD 1))) ∨
    (∃ lost rest, s.inbox = .reset lost :: rest ∧ t.irq = false) := by
  rcases step_cases h with ⟨w, hc, hq, h⟩ | ⟨-, -, rfl⟩ | ⟨a, rest, hi, h⟩ | ⟨lost, rest, hi, rfl⟩
  · obtain ⟨⟨c, ended⟩, -⟩ := completion_ended h
    refine .inr (.inl ⟨hc, w, hq, ended.cmdq, ended.lastcmd w hq, ?_⟩)
    exact irq_completion (s := { s with inbox := s.inbox.tail }) h
  · exact .inl rfl
  · rcases irq_hostAccess h with h | ⟨w, ha, h⟩ | ⟨w, ha, h⟩
    · exact .inl h
    · exact .inr (.inr (.inl ⟨w, rest, ha ▸ hi, h⟩))
    · exact .inr (.inr (.inr (.inl ⟨w, rest, ha ▸ hi, h⟩)))
  · exact .inr (.inr (.inr (.inr ⟨lost, rest, hi, rfl⟩)))

/-! ## The latch (R28, R30) -/

/-- No register's write but CMD's changes the latch. -/
theorem cmdq_writeReg (s : State) {r : Reg} (hcmd : r ≠ .cmd) (w : Word) : (s.writeReg r w).cmdq = s.cmdq := by
  cases r with
  | cmd => exact absurd rfl hcmd
  | ctrl => exact writeCtrl_cmdq s w
  | scalar i j => exact writeS_cmdq ..
  | id | status | elen | lastcmd | ebuf | reserved => rfl

/-- A host access that changes the latch is a CMD write that finds BUSY = 0. -/
theorem cmdq_hostAccess {s t : State} {a : Access} (h : s.hostAccess a = .next t) :
    t.cmdq = s.cmdq ∨ ∃ w, Event.host a = wr 0x004 w ∧ s.busy = false ∧ t = s.issue w := by
  rcases hostAccess_cases h with rfl | ⟨off, -, -, -, rfl⟩ | ⟨off, w, rfl, -, -, rfl⟩
  · exact .inl rfl
  · exact .inl rfl
  · cases hb : s.busy with
    | true => exact .inl (by rw [regWrite_busy hb])
    | false =>
      rw [regWrite_idle hb]
      by_cases hcmd : regAt off = .cmd
      · exact .inr ⟨w, by rw [regAt_eq_cmd hcmd]; rfl, rfl, by rw [hcmd]; rfl⟩
      · exact .inl (cmdq_writeReg s hcmd w)

/-- With a CMD write next that finds BUSY = 0, the step issues its word. -/
theorem step_issue {s : State} {w : Word} {rest : List Event} (hb : s.busy = false)
    (hi : s.inbox = wr 0x004 w :: rest) : step s = .next (State.issue { s with inbox := rest } w) := by
  rw [step_host hi]
  refine (hostAccess_defined _ 0x004 (.write w) rfl (by decide)).trans ?_
  dsimp only
  rw [regWrite_idle (s := { s with inbox := rest }) hb, regAt_cmd]
  rfl

/-! ## The statements -/

/-- Settles O9: the core's turn completes the latched word, and a word that decodes completes as its command. -/
theorem stepRunsTheDecodedCommand : Obligations.StepRunsTheDecodedCommand := by
  intro s w i hq hc hw
  rw [step_pending hq hc, completion_ok hw]

/-- Settles O10: a word that does not decode completes by raising InvalidCommand. -/
theorem stepCompletesAnIllegalWord : Obligations.StepCompletesAnIllegalWord := by
  intro s w e hq hc hw
  rw [step_pending hq hc, completion_error hw]
  exact ⟨_, rfl, failed_raise _ _⟩

/-- Settles O11: the step is `issue`, and no other step puts a word in the latch. -/
theorem issueLatchesTheWord : Obligations.IssueLatchesTheWord := by
  constructor
  · intro s w rest hb hi
    refine ⟨_, step_issue hb hi, rfl, rfl, rfl, rfl, rfl, rfl, rfl, rfl, sameScalars_of_fields rfl rfl rfl rfl,
      samePoints_of_fields rfl rfl rfl, ⟨rfl, rfl⟩, rfl, rfl, fun e hw => ?_⟩
    rw [completion_error hw]
    exact ⟨_, rfl, failed_raise _ _⟩
  · intro s t w hstep ht hne
    rcases step_cases hstep with ⟨v, -, -, h⟩ | ⟨-, -, rfl⟩ | ⟨a, rest, hi, h⟩ | ⟨lost, rest, -, rfl⟩
    · obtain ⟨⟨c, ended⟩, -⟩ := completion_ended h
      simp [ended.cmdq] at ht
    · exact absurd ht hne
    · rcases cmdq_hostAccess h with h | ⟨v, ha, hb, rfl⟩
      · exact absurd (h ▸ ht) hne
      · obtain rfl : v = w := by simpa using ht
        exact ⟨rest, ha ▸ hi, hb⟩
    · cases ht

/-- Settles O12: a defined access in the register space is a register write, and a busy one only sets OVR. -/
theorem busyWriteOnlySetsOverrun : Obligations.BusyWriteOnlySetsOverrun := by
  intro s off w hb h4 hlt
  rw [hostAccess_defined s off (.write w) h4 hlt]
  exact congrArg _ (regWrite_busy hb off w)

/-- Settles O13: a read is recorded outside the CORE, and an issue changes what STATUS alone shows. -/
theorem readChangesNoRegister : Obligations.ReadChangesNoRegister := by
  intro s off h4 hlt
  obtain ⟨hbusy, -⟩ := statusWord_bits s
  refine ⟨hostAccess_defined s off .read h4 hlt, fun hb => hbusy.trans hb, fun w hne => ?_⟩
  exact readReg_congr _ (fun h => absurd h hne) (fun _ => rfl) (fun _ => rfl) (fun _ => rfl)
    (fun i _ _ => readS_issue s w i) (fun _ _ => rfl)

/-- Settles O18: the map's reserved offsets are R26's ranges, and the reserved register ignores writes. -/
theorem reservedOffsetsReadZero : Obligations.ReservedOffsetsReadZero := by
  intro off h4 hlt
  refine ⟨regAt_eq_reserved_iff hlt h4, fun h s => ⟨by rw [State.regRead, h]; rfl, fun w => ?_⟩⟩
  exact regWrite_ignored (.inr (.inr (.inr h))) s w

/-- Settles O19: ID, STATUS and LASTCMD are among the registers that ignore writes. -/
theorem readOnlyRegistersIgnoreWrites : Obligations.ReadOnlyRegistersIgnoreWrites := by
  refine fun s => ⟨rfl, rfl, rfl, fun off hoff w => regWrite_ignored ?_ s w⟩
  simp only [List.mem_cons, List.not_mem_nil, or_false] at hoff
  rcases hoff with rfl | rfl | rfl <;> simp

/-- Settles O20: the read at 0x008 is the STATUS word, field by field. -/
theorem statusWordLayout : Obligations.StatusWordLayout := by
  intro s
  obtain ⟨hbusy, hdone, herr, hovr, hirq⟩ := statusWord_bits s
  exact ⟨hbusy, hdone, herr, hovr, statusWord_errcode s, hirq, statusWord_reserved s⟩

/-- Settles O21: CTRL's IE, CLRSTAT and SCRUB actions, each with what it keeps when its bit is 0. -/
theorem ctrlWriteActions : Obligations.CtrlWriteActions := by
  refine ⟨rfl, fun s w => ⟨ctrlWord_eq s, fun hb => regWrite_busy hb _ w, fun hb => ?_⟩⟩
  have hwrite : s.regWrite 0x00C w = s.writeCtrl w := by
    rw [regWrite_idle hb, regAt_ctrl, State.writeReg]
  rw [hwrite]
  refine ⟨writeCtrl_ie s w, writeCtrl_busy s w, writeCtrl_cmdq s w, writeCtrl_lastcmd s w, rfl,
    ⟨writeCtrl_inbox s w, writeCtrl_hostReads s w⟩, ?_, ?_⟩
  · split
    next h => exact writeCtrl_status_of_clr s h
    next h => exact writeCtrl_status_of_keep s h
  · split
    next h =>
      obtain ⟨u, hu⟩ := writeCtrl_of_scrub s h
      rw [hu]
      exact ⟨readS_scrub u, rfl, rfl, rfl, ebufByte_scrub u, rfl⟩
    next h => exact writeCtrl_operands_of_keep s h

/-- Settles O22: ELEN keeps the low seven bits, and PDEC compares just those with the length of its format. -/
theorem elenKeepsSevenBits : Obligations.ElenKeepsSevenBits := by
  intro s w hb
  have hwrite : s.regWrite 0x010 w = { s with elen := w.setWidth 7 } := by
    rw [regWrite_idle hb, regAt_elen, State.writeReg, ← BitVec.setWidth_eq_extractLsb' (by decide)]
  refine ⟨?_, hwrite, fun d f hd h33 h65 => ?_⟩
  · rw [hwrite]
    exact append_setWidth_seven w
  · rw [hwrite]
    refine exec_failed ?_
    have hlen : w.setWidth 7 ≠ formatLen f := by
      intro h
      have hword := append_setWidth_seven w
      rw [h] at hword
      cases f with
      | compressed => exact h33 hword.symm
      | uncompressed => exact h65 hword.symm
    exact (withDest_of_isDest ((isDest_iff d).mpr hd) _).trans (if_pos hlen)

/-- Settles O26: each claim is one of the cases of what a step can make of the level. -/
theorem interruptRisesAndFalls : Obligations.InterruptRisesAndFalls := by
  refine ⟨fun s => ⟨rfl, ?_⟩, rfl, fun s t w _ h => irq_completion h, fun s w hb => ⟨?_, ?_⟩, ?_, ?_⟩
  · obtain ⟨-, -, -, -, hirq⟩ := statusWord_bits s
    exact hirq
  · rw [regWrite_idle hb]
    exact irq_writeCtrl s w
  · rw [regWrite_idle hb]
    exact irq_issue s w
  · intro s t hstep hlow hhigh
    rcases irq_step hstep with h | ⟨hc, w, hq, hq', hlast, h⟩ | ⟨w, rest, -, h⟩ | ⟨w, rest, hi, h⟩ | ⟨lost, rest, -, h⟩
    · simp [h, hlow] at hhigh
    · exact .inl ⟨h ▸ hhigh, hc, w, hq, hq', hlast⟩
    · simp [h] at hhigh
    · rw [h, Bool.and_eq_true, Bool.and_eq_true] at hhigh
      obtain ⟨hie, hdone, -⟩ := hhigh
      exact .inr ⟨hdone, w, rest, hi, hie⟩
    · simp [h] at hhigh
  · intro s t hstep hhigh hlow
    obtain ⟨hie, hdone⟩ : s.ie = true ∧ s.done = true := by simpa [State.irq] using hhigh
    rcases irq_step hstep with h | ⟨-, w, -, -, -, h⟩ | ⟨w, rest, hi, -⟩ | ⟨w, rest, hi, h⟩ | ⟨lost, rest, hi, -⟩
    · simp [h, hhigh] at hlow
    · simp [h, hie] at hlow
    · exact .inl ⟨w, rest, hi⟩
    · refine .inr (.inl ⟨w, rest, hi, ?_⟩)
      rw [h, hdone] at hlow
      cases h0 : w.getLsbD 0 with
      | false => exact .inl rfl
      | true => exact .inr (by simpa [h0] using hlow)
    · exact .inr (.inr ⟨lost, rest, hi⟩)

/-- Settles O48: P0 is no field of the state, and the destination is checked before anything else. -/
theorem hardwiredBasePoint : Obligations.HardwiredBasePoint := by
  refine ⟨fun s => ⟨rfl, onCurve_G, fun Q => rfl⟩, fun i s hd => exec_failed ?_⟩
  cases i with
  | sadd | pcomp => cases hd
  | pdbl | padd | pmul | pdec => cases hd; rfl

/-- Settles O52: a completion writes at most its destination, and every other word reads as before. -/
theorem commandsWriteOnlyTheirDestination : Obligations.CommandsWriteOnlyTheirDestination := by
  intro i s
  obtain ⟨t, ht, h⟩ := exec_onlyDestination i s
  obtain ⟨c, ended⟩ := h.ended
  exact ⟨t, ht, h.scalars, h.points, h.encoding, h.outside, ended.ie, ended.ovr, ended.busy, ended.done, ended.cmdq,
    fun off => h.readReg⟩

/-- Settles O53: the pseudocode reads the operands alone, so it ends alike from states that agree on them. -/
theorem commandsReadNoStatus : Obligations.CommandsReadNoStatus := by
  intro i s s' hS hP hE
  have h : SameOperands s s' := ⟨hS, hP, hE⟩
  obtain ⟨same, herr, hcode⟩ := h.complete (h.body i)
  exact ⟨_, _, exec_eq i s, exec_eq i s', same.scalars, same.points, same.encoding, herr, hcode⟩

/-- Settles O57: the access changes at most OVR and the host's record. -/
theorem pendingCommandIsUndisturbed : Obligations.PendingCommandIsUndisturbed := by
  intro s t a rest hb hi hstep
  obtain ⟨ovr, reads, rfl⟩ := step_host_busy hb hi hstep
  obtain ⟨scalars, points, encoding⟩ := sameOperands_afterAccesses s ovr reads rest
  exact ⟨scalars, points, encoding, rfl, hb, rfl, rfl, rfl, rfl, rfl, rfl⟩

/-- Settles O58: the accesses leave every operand alone, so the completion after them ends as it would have at once. -/
theorem pendingCommandCompletes : Obligations.PendingCommandCompletes := by
  intro s w accesses rest hinv hq hdef hi hc
  have hb : s.busy = true := hinv.busy_iff.mpr (by simp [hq])
  obtain ⟨ovr, reads, hrun⟩ := run_pending hc accesses hb hq hdef hi
  obtain ⟨u, t, hu, ht, same, herr, hcode⟩ := (sameOperands_afterAccesses s ovr reads rest.tail).completion w
  obtain ⟨⟨c, ended⟩, outside⟩ := completion_ended ht
  exact ⟨u, t, hu, hrun t ht, same.scalars, same.points, same.encoding, herr.symm, hcode.symm, ended.lastcmd w hq,
    ended.busy, ended.done, ended.cmdq, ended.ie, outside.1⟩

/-- Settles O59: with nothing latched the core's turn takes its event alone. -/
theorem idleCoreDoesNothing : Obligations.IdleCoreDoesNothing := by
  intro s hq hc
  rw [step_coreNext hc, coreTurn, hq]

end Sys2Proof.Machine

/-! # The register space as the host sees it

The scalar and EBUF windows word by word (R47, R48), a write made twice (R51), and one host access on its own and as
a step (R44, R45, R53): the statements of the family 20_memory.md. -/

namespace Sys2Proof.Machine

/-! ## One host access (R44, R45) -/

/-- An access that reaches the register space and is not 32 bits wide faults, whatever its offset (R44). -/
theorem hostAccess_wrongWidth (s : State) {a : Access} (hr : a.reaches = true) (hw : a.width ≠ .bits32) :
    s.hostAccess a = .fault .accessWidth := by
  rw [State.hostAccess, if_pos hr, if_neg hw]

/-- A 32-bit access that reaches the register space off a word boundary faults (R44). -/
theorem hostAccess_misaligned (s : State) {a : Access} (hr : a.reaches = true) (hw : a.width = .bits32)
    (h4 : a.off % 4 ≠ 0) : s.hostAccess a = .fault .accessAlignment := by
  rw [State.hostAccess, if_pos hr, if_pos hw, if_neg h4]

/-- A 32-bit access on a word boundary that reaches the register space lies inside it. -/
theorem off_nonneg_of_aligned {a : Access} (hlow : 0 < a.off + a.width.bytes) (hw : a.width = .bits32)
    (h4 : a.off % 4 = 0) : 0 ≤ a.off := by
  rw [hw] at hlow
  simp only [AccessWidth.bytes] at hlow
  omega

/-- Settles O14: outside the space nothing happens; inside it the width is tested, then the alignment, and what is
left is a defined access. -/
theorem undefinedAccessFaults : Obligations.UndefinedAccessFaults := by
  intro s a
  refine ⟨hostAccess_outside s a, fun hlow hhigh => ?_⟩
  have hr : a.reaches = true := (reaches_iff a).mpr ⟨hlow, hhigh⟩
  refine ⟨hostAccess_wrongWidth s hr, hostAccess_misaligned s hr, fun hw h4 => ?_⟩
  have hnonneg := off_nonneg_of_aligned hlow hw h4
  obtain ⟨o, width, kind⟩ := a
  obtain ⟨off, rfl⟩ := Int.eq_ofNat_of_zero_le hnonneg
  dsimp only at hw h4 hhigh
  subst hw
  have haccess := hostAccess_defined s off kind (by omega) (by omega)
  constructor
  · rintro rfl
    exact haccess
  · rintro w rfl
    exact haccess

/-! ## The next host access as a step (R53) -/

/-- No register shows what is still to arrive. -/
@[simp] theorem regRead_inbox (s : State) (events : List Event) (off : Nat) :
    State.regRead { s with inbox := events } off = s.regRead off :=
  readReg_congr _ (fun _ => rfl) (fun _ => rfl) (fun _ => rfl) (fun _ => rfl)
    (fun i _ _ => by cases i <;> rfl) (fun _ _ => rfl)

/-- Settles O60: a step takes a host access off the list and makes it, and at a word offset it is defined. -/
theorem stepMakesTheNextAccess : Obligations.StepMakesTheNextAccess := by
  intro s rest
  refine ⟨fun a => step_host, fun off h4 hlt => ⟨fun hi => ?_, fun w hi => ?_⟩⟩
  · rw [step_host hi, hostAccess_defined _ off .read h4 hlt]
    dsimp only
    rw [regRead_inbox]
  · rw [step_host hi, hostAccess_defined _ off (.write w) h4 hlt]

/-! ## The scalar windows (R47) -/

/-- A read of word `j` of the window of S[i]. -/
theorem regRead_scalarWindow (s : State) (i : SReg) (j : Fin 8) :
    s.regRead (0x100 + 0x20 * i.bits.toNat + 4 * j.val) = scalarWord (s.readS i) j := by
  rw [State.regRead, regAt_scalar, State.readReg]

/-- An idle write of word `j` of the window of S[i]. -/
theorem regWrite_scalarWindow {s : State} (hb : s.busy = false) (i : SReg) (j : Fin 8) (w : Word) :
    s.regWrite (0x100 + 0x20 * i.bits.toNat + 4 * j.val) w = s.writeS i (setScalarWord (s.readS i) j w) := by
  rw [regWrite_idle hb, regAt_scalar, State.writeReg]

/-- Bits taken out of bits taken out of a vector, as one range of the vector. -/
theorem extractLsb'_extractLsb' {n : Nat} (v : BitVec n) (a b : Nat) {len m : Nat} (h : b + m ≤ len) :
    (v.extractLsb' a len).extractLsb' b m = v.extractLsb' (a + b) m := by
  apply BitVec.eq_of_getLsbD_eq
  intro i hi
  have hlen : b + i < len := by omega
  simp [hlen, Nat.add_assoc]

/-- Lane `k` of word `j` of a scalar is byte 4j + k of its big-endian string (R8, R47). -/
theorem laneByte_scalarWord (v : Scalar) (j : Fin 8) {k : Nat} (hk : k < 4) :
    some (laneByte (scalarWord v j) k) = (int2be 32 v.toNat)[4 * j.val + k]? := by
  have hj := j.isLt
  have hshift : 224 - 32 * j.val + (24 - 8 * k) = 8 * (32 - 1 - (4 * j.val + k)) := by omega
  rw [getElem?_int2be _ _ _ (by omega), laneByte, scalarWord, extractLsb'_extractLsb' _ _ _ (by omega), hshift]
  congr 1
  apply BitVec.eq_of_toNat_eq
  rw [BitVec.extractLsb'_toNat, BitVec.toNat_ofNat, Nat.shiftRight_eq_div_pow, pow_mul]
  rfl

/-- Settles O23: the window's words are the scalar's, and a write sets one word of one scalar. -/
theorem scalarWindowWords : Obligations.ScalarWindowWords := by
  intro s i j hj
  obtain ⟨j, rfl⟩ : ∃ j' : Fin 8, j'.val = j := ⟨⟨j, hj⟩, rfl⟩
  dsimp only
  rw [regRead_scalarWindow]
  refine ⟨rfl, fun k hk => laneByte_scalarWord _ j hk, fun w hb => ?_⟩
  rw [regWrite_scalarWindow hb, readS_writeS_same]
  exact ⟨rfl, scalarWord_setScalarWord_same _ j w, fun j' hj' hne =>
    scalarWord_setScalarWord_other _ (k := ⟨j', hj'⟩) (fun h => hne (congrArg Fin.val h)) w⟩

/-! ## The EBUF window (R48) -/

/-- A read of word `j` of the EBUF window. -/
theorem regRead_ebufWindow (s : State) (j : Fin 17) : s.regRead (0x200 + 4 * j.val) = s.ebufWord j := by
  rw [State.regRead, regAt_ebuf, State.readReg]

/-- An idle write of word `j` of the EBUF window. -/
theorem regWrite_ebufWindow {s : State} (hb : s.busy = false) (j : Fin 17) (w : Word) :
    s.regWrite (0x200 + 4 * j.val) w = s.setEbufWord j w := by
  rw [regWrite_idle hb, regAt_ebuf, State.writeReg]

/-- Settles O24: the window's lanes are EBUF's bytes, and a write sets the bytes that its word holds. -/
theorem ebufWindowWords : Obligations.EbufWindowWords := by
  intro s j hj
  obtain ⟨j, rfl⟩ : ∃ j' : Fin 17, j'.val = j := ⟨⟨j, Nat.lt_succ_of_le hj⟩, rfl⟩
  refine ⟨fun k hk => ?_, fun w hb => ?_⟩
  · rw [regRead_ebufWindow]
    exact laneByte_ebufWord s j hk
  · rw [regWrite_ebufWindow hb]
    exact ⟨rfl, fun m hm => getElem_setBufferWord s.ebuf j w m hm⟩

/-! ## A write made twice (R51) -/

/-- A second write of a word to the EBUF window replaces the first. -/
theorem setBufferWord_setBufferWord (e : Vector Byte 65) (j : Fin 17) (w : Word) :
    setBufferWord (setBufferWord e j w) j w = setBufferWord e j w := by
  apply Vector.ext
  intro k hk
  rw [getElem_setBufferWord, getElem_setBufferWord]
  split <;> rfl

/-- The actions of a CTRL write are assignments, so a second one finds them made (R22). -/
theorem writeCtrl_writeCtrl (s : State) (w : Word) : (s.writeCtrl w).writeCtrl w = s.writeCtrl w := by
  simp only [writeCtrl_eq]
  cases w.getLsbD 1 <;> cases w.getLsbD 2 <;> rfl

/-- No register's write but CMD's changes BUSY (R30). -/
theorem busy_writeReg (s : State) {r : Reg} (hcmd : r ≠ .cmd) (w : Word) : (s.writeReg r w).busy = s.busy := by
  cases r with
  | cmd => exact absurd rfl hcmd
  | ctrl => exact writeCtrl_busy s w
  | scalar i j => exact writeS_busy ..
  | id | status | elen | lastcmd | ebuf | reserved => rfl

/-- An idle write made twice to any register but CMD. -/
theorem writeReg_writeReg (s : State) {r : Reg} (hcmd : r ≠ .cmd) (w : Word) :
    (s.writeReg r w).writeReg r w = s.writeReg r w := by
  cases r with
  | cmd => exact absurd rfl hcmd
  | ctrl => exact writeCtrl_writeCtrl s w
  | scalar i j =>
    simp only [State.writeReg, readS_writeS_same, setScalarWord_setScalarWord, writeS_writeS]
  | ebuf j => simp only [State.writeReg, State.setEbufWord, setBufferWord_setBufferWord]
  | id | status | elen | lastcmd | reserved => rfl

/-- Settles O25: a busy write sets OVR again, and an idle one leaves BUSY at 0 and sets what it set before. -/
theorem writesAreIdempotent : Obligations.WritesAreIdempotent := by
  intro s off w hcmd
  cases hb : s.busy with
  | true =>
    rw [regWrite_busy hb]
    exact regWrite_busy (s := { s with ovr := true }) hb off w
  | false =>
    rw [regWrite_idle hb, regWrite_idle ((busy_writeReg s hcmd w).trans hb), writeReg_writeReg s hcmd w]

end Sys2Proof.Machine

/-! # The command word

A word is its nine fields put together (R63); `decode` and `encode` are inverse on the legal words (R69, R76), the
masks of R68 fix some of the fields, and the assembler reads the lines it prints (R73, R77): the statements of the
family 30_encoding.md. -/

namespace Sys2Proof.Machine

/-! ## A word and its fields (R63) -/

/-- A word is its fields, the most significant first. -/
theorem append_fields (w : Word) :
    res3Field w ++ fField w ++ res2Field w ++ bField w ++ res1Field w ++ aField w ++ res0Field w ++ dField w ++
      opField w = w := by
  simp (disch := decide) only [res3Field, fField, res2Field, bField, res1Field, aField, res0Field, dField, opField,
    BitVec.extractLsb'_append_extractLsb'_eq_extractLsb']
  exact BitVec.extractLsb'_eq_self

/-- Two words are equal when every field is. -/
theorem eq_iff_fields {v w : Word} :
    v = w ↔ opField v = opField w ∧ dField v = dField w ∧ aField v = aField w ∧ bField v = bField w ∧
      fField v = fField w ∧ res0Field v = res0Field w ∧ res1Field v = res1Field w ∧ res2Field v = res2Field w ∧
      res3Field v = res3Field w := by
  constructor
  · rintro rfl
    simp only [and_self]
  · rintro ⟨hop, hd, ha, hb, hf, h0, h1, h2, h3⟩
    rw [← append_fields v, ← append_fields w, hop, hd, ha, hb, hf, h0, h1, h2, h3]

/-- The fields of nine bit strings put together as a word. -/
theorem fields_append (r3 : BitVec 7) (f : BitVec 1) (r2 : BitVec 6) (b r1 a r0 d : BitVec 2) (op : BitVec 8) :
    let w : Word := r3 ++ f ++ r2 ++ b ++ r1 ++ a ++ r0 ++ d ++ op
    opField w = op ∧ dField w = d ∧ aField w = a ∧ bField w = b ∧ fField w = f ∧ res0Field w = r0 ∧
      res1Field w = r1 ∧ res2Field w = r2 ∧ res3Field w = r3 := by
  simp (disch := decide) only [opField, dField, aField, bField, fField, res0Field, res1Field, res2Field, res3Field,
    BitVec.extractLsb'_append_eq_of_le, BitVec.extractLsb'_append_eq_of_add_le, Nat.reduceSub,
    BitVec.extractLsb'_eq_self, and_self]

/-- The fields of a command word, the reserved ones 0. -/
@[simp] theorem fields_pack (f : BitVec 1) (b a d : BitVec 2) (op : BitVec 8) :
    opField (pack f b a d op) = op ∧ dField (pack f b a d op) = d ∧ aField (pack f b a d op) = a ∧
      bField (pack f b a d op) = b ∧ fField (pack f b a d op) = f ∧ res0Field (pack f b a d op) = 0#2 ∧
      res1Field (pack f b a d op) = 0#2 ∧ res2Field (pack f b a d op) = 0#6 ∧ res3Field (pack f b a d op) = 0#7 :=
  fields_append ..

/-- A word is put together from given fields exactly when those are its fields and its reserved fields are 0. -/
theorem pack_eq_iff {f : BitVec 1} {b a d : BitVec 2} {op : BitVec 8} {w : Word} :
    pack f b a d op = w ↔ op = opField w ∧ d = dField w ∧ a = aField w ∧ b = bField w ∧ f = fField w ∧
      0#2 = res0Field w ∧ 0#2 = res1Field w ∧ 0#6 = res2Field w ∧ 0#7 = res3Field w := by
  simp [eq_iff_fields]

/-- A word whose reserved fields are 0 is put together from its other fields. -/
theorem pack_fields {w : Word} (h : ¬ (res0Field w ≠ 0 ∨ res1Field w ≠ 0 ∨ res2Field w ≠ 0 ∨ res3Field w ≠ 0)) :
    pack (fField w) (bField w) (aField w) (dField w) (opField w) = w := by
  simp only [not_or, not_not] at h
  obtain ⟨h0, h1, h2, h3⟩ := h
  exact pack_eq_iff.mpr ⟨rfl, rfl, rfl, rfl, rfl, h0.symm, h1.symm, h2.symm, h3.symm⟩

/-- The fields of a conjunction of words. -/
theorem fields_and (w m : Word) :
    opField (w &&& m) = opField w &&& opField m ∧ dField (w &&& m) = dField w &&& dField m ∧
      aField (w &&& m) = aField w &&& aField m ∧ bField (w &&& m) = bField w &&& bField m ∧
      fField (w &&& m) = fField w &&& fField m ∧ res0Field (w &&& m) = res0Field w &&& res0Field m ∧
      res1Field (w &&& m) = res1Field w &&& res1Field m ∧ res2Field (w &&& m) = res2Field w &&& res2Field m ∧
      res3Field (w &&& m) = res3Field w &&& res3Field m := by
  simp only [opField, dField, aField, bField, fField, res0Field, res1Field, res2Field, res3Field,
    BitVec.extractLsb'_and, and_self]

/-- A command word as the shifts and ORs of R76. -/
theorem pack_eq_shifts (f : BitVec 1) (b a d : BitVec 2) (op : BitVec 8) :
    pack f b a d op = f.setWidth 32 <<< 24 ||| b.setWidth 32 <<< 16 ||| a.setWidth 32 <<< 12 ||| d.setWidth 32 <<< 8 |||
      op.setWidth 32 := by
  rw [← BitVec.setWidth_eq (pack f b a d op)]
  simp only [pack, BitVec.setWidth_append_eq_shiftLeft_setWidth_or]
  simp [BitVec.shiftLeft_or_distrib, ← BitVec.shiftLeft_add]

/-! ## Register names and indices (R64, R65) -/

@[simp] theorem sreg_ofBits_bits (r : SReg) : SReg.ofBits r.bits = r := by cases r <;> rfl

@[simp] theorem preg_ofBits_bits (r : PReg) : PReg.ofBits r.bits = r := by cases r <;> rfl

@[simp] theorem format_ofBit_bit (f : PointFormat) : PointFormat.ofBit f.bit = f := by cases f <;> rfl

@[simp] theorem sreg_bits_ofBits (b : BitVec 2) : (SReg.ofBits b).bits = b := by
  revert b
  decide

@[simp] theorem preg_bits_ofBits (b : BitVec 2) : (PReg.ofBits b).bits = b := by
  revert b
  decide

@[simp] theorem format_bit_ofBit (b : BitVec 1) : (PointFormat.ofBit b).bit = b := by
  revert b
  decide

/-- A register is a destination when its index is not 0 (R64). -/
theorem isDest_iff_bits (r : PReg) : r.isDest = true ↔ r.bits ≠ 0#2 := by cases r <;> decide

/-! ## The tests of the decoder (R69) -/

section Reject

variable {p : Prop} [Decidable p] {e : DecodeError} {r : Except DecodeError Instr} {i j : Instr}

/-- What passes a test has passed it and what follows. -/
theorem reject_eq_ok_iff : (if p then .error e else r) = .ok i ↔ ¬ p ∧ r = .ok i := by split <;> simp [*]

/-- What is rejected fails the test or what follows. -/
theorem reject_eq_error_iff : (∃ e', (if p then .error e else r) = .error e') ↔ p ∨ ∃ e', r = .error e' := by
  split <;> simp [*]

/-- The destination check passes a well-formed command. -/
theorem requireDest_of_wellFormed (h : i.WellFormed) : requireDest i = .ok i := if_pos h

/-- The destination check passes a well-formed command and no other. -/
theorem requireDest_eq_ok_iff : requireDest i = .ok j ↔ i.WellFormed ∧ i = j := by
  unfold requireDest
  split <;> simp_all only [Except.ok.injEq, Instr.WellFormed, true_and, false_and, reduceCtorEq]

/-- The destination check rejects what is not well formed. -/
theorem requireDest_eq_error_iff : (∃ e', requireDest i = .error e') ↔ ¬ i.WellFormed := by
  unfold requireDest
  split <;> simp [*]

end Reject

/-- An opcode is reserved or one of the six: the two commands without a destination check, then the four with one. -/
theorem opcode_cases (w : Word) :
    ((opField w).toNat = 0x00 ∨ 0x07 ≤ (opField w).toNat) ∨ opField w = 0x01#8 ∨ opField w = 0x05#8 ∨
      opField w = 0x02#8 ∨ opField w = 0x03#8 ∨ opField w = 0x04#8 ∨ opField w = 0x06#8 := by
  bv_omega

/-- A word with a reserved opcode does not decode. -/
theorem decodeOp_reserved {w : Word} (h : (opField w).toNat = 0x00 ∨ 0x07 ≤ (opField w).toNat) :
    decodeOp w = .error .reservedOpcode := by
  unfold decodeOp
  split
  case h_7 => rfl
  all_goals omega

/-! ## Decode and encode (R69, R71, R76) -/

/-- Decoding the word of a well-formed command gives the command back. -/
theorem decode_encode {i : Instr} (h : i.WellFormed) : decode (encode i) = .ok i := by
  cases i with
  | sadd | pcomp => simp [decode, decodeOp, encode]
  | pdbl | padd | pmul | pdec => simp [decode, decodeOp, encode, requireDest_of_wellFormed h]

/-- A word that decodes is the word of the well-formed command it decodes to. -/
theorem encode_of_decode {w : Word} {i : Instr} (h : decode w = .ok i) : i.WellFormed ∧ encode i = w := by
  rw [decode, reject_eq_ok_iff] at h
  obtain ⟨hres, h⟩ := h
  have hw := pack_fields hres
  rcases opcode_cases w with hop | hop | hop | hop | hop | hop | hop
  · rw [decodeOp_reserved hop] at h
    cases h
  · simp only [decodeOp, hop, BitVec.reduceToNat, reject_eq_ok_iff, not_not, Except.ok.injEq] at h
    obtain ⟨hf, rfl⟩ := h
    exact ⟨rfl, by simpa [encode, hop, hf] using hw⟩
  · simp only [decodeOp, hop, BitVec.reduceToNat, reject_eq_ok_iff, not_or, not_not, Except.ok.injEq] at h
    obtain ⟨hz, rfl⟩ := h
    exact ⟨rfl, by simpa [encode, hop, hz] using hw⟩
  all_goals
    simp only [decodeOp, hop, BitVec.reduceToNat, reject_eq_ok_iff, requireDest_eq_ok_iff, not_or, not_not] at h
    obtain ⟨hz, hwf, rfl⟩ := h
    exact ⟨hwf, by simpa [encode, hop, hz] using hw⟩

/-- The legal words are the words of the well-formed commands. -/
theorem decode_eq_ok_iff {w : Word} {i : Instr} : decode w = .ok i ↔ i.WellFormed ∧ encode i = w := by
  constructor
  · exact encode_of_decode
  · rintro ⟨h, rfl⟩
    exact decode_encode h

/-- The destination field names P0 when it is 0. -/
theorem isDest_ofBits (b : BitVec 2) : (PReg.ofBits b).isDest = true ↔ b ≠ 0#2 := by
  rw [isDest_iff_bits, preg_bits_ofBits]

/-- The illegal words are R71's. -/
theorem decode_eq_error_iff (w : Word) :
    (∃ e, decode w = .error e) ↔
      (res0Field w ≠ 0 ∨ res1Field w ≠ 0 ∨ res2Field w ≠ 0 ∨ res3Field w ≠ 0) ∨
      ((opField w).toNat = 0x00 ∨ 0x07 ≤ (opField w).toNat) ∨
      ((opField w).toNat ∈ [0x01, 0x03, 0x04] ∧ fField w ≠ 0 ∨
        (opField w).toNat = 0x02 ∧ (bField w ≠ 0 ∨ fField w ≠ 0) ∨
        (opField w).toNat = 0x05 ∧ (dField w ≠ 0 ∨ bField w ≠ 0) ∨
        (opField w).toNat = 0x06 ∧ (aField w ≠ 0 ∨ bField w ≠ 0)) ∨
      ((opField w).toNat ∈ [0x02, 0x03, 0x04, 0x06] ∧ dField w = 0) := by
  rw [decode, reject_eq_error_iff]
  refine or_congr_right ?_
  rcases opcode_cases w with hop | hop | hop | hop | hop | hop | hop
  · rw [decodeOp_reserved hop]
    simp [hop]
  all_goals
    simp only [decodeOp, hop, BitVec.reduceToNat, reject_eq_error_iff, requireDest_eq_error_iff]
    simp [Instr.wellFormed, isDest_ofBits]

/-- Settles O1: the fields of the word are those of the command, and its destination passes the check. -/
theorem decodeInvertsEncode : Obligations.DecodeInvertsEncode := fun _ => decode_encode

/-- Settles O2: every field of the word is one of the command's, or 0. -/
theorem encodeInvertsDecode : Obligations.EncodeInvertsDecode := fun _ _ => encode_of_decode

/-- Settles O4: each opcode rejects what R71 says, and a rejected word completes by raising InvalidCommand. -/
theorem illegalWordsRaiseInvalidCommand : Obligations.IllegalWordsRaiseInvalidCommand := by
  refine fun w => ⟨decode_eq_error_iff w, fun ⟨e, he⟩ s => ?_⟩
  exact ⟨_, completion_error he s, failed_raise s _⟩

/-- Settles O6: each command's word is put together from its fields, and the formula is that word's. -/
theorem encodeFollowsTheFormula : Obligations.EncodeFollowsTheFormula :=
  ⟨fun _ _ _ => pack_eq_shifts .., fun _ _ => pack_eq_shifts .., fun _ _ _ => pack_eq_shifts ..,
    fun _ _ _ => pack_eq_shifts .., fun _ => ⟨pack_eq_shifts .., pack_eq_shifts ..⟩,
    fun _ => ⟨pack_eq_shifts .., pack_eq_shifts ..⟩, rfl, rfl, rfl, rfl, rfl, rfl⟩

/-- Settles O7: each word is the word of its well-formed command. -/
theorem writtenOutWordsDecode : Obligations.WrittenOutWordsDecode := by
  refine ⟨?_, ?_, ?_, ?_, ?_, ?_⟩
  all_goals exact decode_eq_ok_iff.mpr ⟨rfl, rfl⟩

/-! ## Match and mask (R68) -/

/-- R68's masks: all bits of OP and of the reserved fields, and the given bits of the other fields. -/
def commandMask (f : BitVec 1) (b a d : BitVec 2) : Word :=
  BitVec.allOnes 7 ++ f ++ BitVec.allOnes 6 ++ b ++ BitVec.allOnes 2 ++ a ++ BitVec.allOnes 2 ++ d ++ BitVec.allOnes 8

/-- The fields of a mask. -/
@[simp] theorem fields_commandMask (f : BitVec 1) (b a d : BitVec 2) :
    opField (commandMask f b a d) = BitVec.allOnes 8 ∧ dField (commandMask f b a d) = d ∧
      aField (commandMask f b a d) = a ∧ bField (commandMask f b a d) = b ∧ fField (commandMask f b a d) = f ∧
      res0Field (commandMask f b a d) = BitVec.allOnes 2 ∧ res1Field (commandMask f b a d) = BitVec.allOnes 2 ∧
      res2Field (commandMask f b a d) = BitVec.allOnes 6 ∧ res3Field (commandMask f b a d) = BitVec.allOnes 7 :=
  fields_append ..

/-! The four masks of R68's table, each named after the fields it leaves to the operands. -/

theorem commandMask_dab : commandMask (BitVec.allOnes 1) 0 0 0 = 0xFFFCCCFF#32 := rfl

theorem commandMask_da : commandMask (BitVec.allOnes 1) (BitVec.allOnes 2) 0 0 = 0xFFFFCCFF#32 := rfl

theorem commandMask_af : commandMask 0 (BitVec.allOnes 2) 0 (BitVec.allOnes 2) = 0xFEFFCFFF#32 := rfl

theorem commandMask_df : commandMask 0 (BitVec.allOnes 2) (BitVec.allOnes 2) 0 = 0xFEFFFCFF#32 := rfl

/-- A word matches an opcode under a mask when that is its opcode, its reserved fields are 0, and the masked bits of
its other fields are 0. -/
theorem and_commandMask_eq_iff (w : Word) (f : BitVec 1) (b a d : BitVec 2) (op : BitVec 8) :
    w &&& commandMask f b a d = pack 0 0 0 0 op ↔
      op = opField w ∧ 0#2 = dField w &&& d ∧ 0#2 = aField w &&& a ∧ 0#2 = bField w &&& b ∧ 0#1 = fField w &&& f ∧
        0#2 = res0Field w ∧ 0#2 = res1Field w ∧ 0#6 = res2Field w ∧ 0#7 = res3Field w := by
  rw [eq_comm, eq_iff_fields]
  simp only [fields_and, fields_commandMask, fields_pack, BitVec.and_allOnes]
  rfl

section Mask

variable {w : Word} {f : BitVec 1} {b a d : BitVec 2} {op : BitVec 8}

/-- The mask of the commands with the operands D, A and B. -/
theorem pack_dab_eq_iff :
    pack 0 b a d op = w ↔ w &&& 0xFFFCCCFF#32 = pack 0 0 0 0 op ∧ d = dField w ∧ a = aField w ∧ b = bField w := by
  rw [pack_eq_iff, ← commandMask_dab, and_commandMask_eq_iff]
  simp only [BitVec.ofNat_eq_ofNat, BitVec.and_zero, BitVec.and_allOnes, true_and]
  tauto

/-- The mask of the command with the operands D and A. -/
theorem pack_da_eq_iff :
    pack 0 0 a d op = w ↔ w &&& 0xFFFFCCFF#32 = pack 0 0 0 0 op ∧ d = dField w ∧ a = aField w := by
  rw [pack_eq_iff, ← commandMask_da, and_commandMask_eq_iff]
  simp only [BitVec.ofNat_eq_ofNat, BitVec.and_zero, BitVec.and_allOnes, true_and]
  tauto

/-- The mask of the command with the operands A and F. -/
theorem pack_af_eq_iff :
    pack f 0 a 0 op = w ↔ w &&& 0xFEFFCFFF#32 = pack 0 0 0 0 op ∧ a = aField w ∧ f = fField w := by
  rw [pack_eq_iff, ← commandMask_af, and_commandMask_eq_iff]
  simp only [BitVec.ofNat_eq_ofNat, BitVec.and_zero, BitVec.and_allOnes, true_and]
  tauto

/-- The mask of the command with the operands D and F. -/
theorem pack_df_eq_iff :
    pack f 0 0 d op = w ↔ w &&& 0xFEFFFCFF#32 = pack 0 0 0 0 op ∧ d = dField w ∧ f = fField w := by
  rw [pack_eq_iff, ← commandMask_df, and_commandMask_eq_iff]
  simp only [BitVec.ofNat_eq_ofNat, BitVec.and_zero, BitVec.and_allOnes, true_and]
  tauto

end Mask

/-- The destination check is the extra condition on the field that names the destination. -/
theorem isDest_and_iff {d : PReg} {x : BitVec 2} {p q : Prop} :
    d.isDest = true ∧ p ∧ d.bits = x ∧ q ↔ p ∧ x ≠ 0 ∧ d.bits = x ∧ q := by
  rw [isDest_iff_bits]
  constructor
  · rintro ⟨hd, hp, rfl, hq⟩
    exact ⟨hp, hd, rfl, hq⟩
  · rintro ⟨hp, hd, rfl, hq⟩
    exact ⟨hd, hp, rfl, hq⟩

/-- Settles O3: the mask leaves out the operand fields, and the destination check is D ≠ 0. -/
theorem decodeFollowsMatchAndMask : Obligations.DecodeFollowsMatchAndMask := by
  refine ⟨rfl, rfl, rfl, fun w => ⟨fun d a b => ?_, fun d a => ?_, fun d a b => ?_, fun d a b => ?_, fun a f => ?_,
    fun d f => ?_⟩⟩
  all_goals rw [decode_eq_ok_iff, encode]
  · exact (and_iff_right rfl).trans pack_dab_eq_iff
  · exact (and_congr_right' pack_da_eq_iff).trans isDest_and_iff
  · exact (and_congr_right' pack_dab_eq_iff).trans isDest_and_iff
  · exact (and_congr_right' pack_dab_eq_iff).trans isDest_and_iff
  · exact (and_iff_right rfl).trans pack_af_eq_iff
  · exact (and_congr_right' pack_df_eq_iff).trans isDest_and_iff

/-! ## The legal words, counted (R69) -/

/-- The scalar registers. -/
def sregs : List SReg := [.s0, .s1, .s2, .s3]

/-- The point registers. -/
def pregs : List PReg := [.p0, .p1, .p2, .p3]

/-- The point registers that can be a destination. -/
def dests : List PReg := [.p1, .p2, .p3]

/-- The point formats. -/
def formats : List PointFormat := [.compressed, .uncompressed]

@[simp] theorem mem_sregs (r : SReg) : r ∈ sregs := by cases r <;> decide

@[simp] theorem mem_pregs (r : PReg) : r ∈ pregs := by cases r <;> decide

@[simp] theorem mem_dests (r : PReg) : r ∈ dests ↔ r.isDest = true := by cases r <;> decide

@[simp] theorem mem_formats (f : PointFormat) : f ∈ formats := by cases f <;> decide

/-! Each list names its registers or formats once. -/

theorem nodup_sregs : sregs.Nodup := by decide

theorem nodup_pregs : pregs.Nodup := by decide

theorem nodup_dests : dests.Nodup := by decide

theorem nodup_formats : formats.Nodup := by decide

theorem length_sregs : sregs.length = 4 := rfl

theorem length_pregs : pregs.length = 4 := rfl

theorem length_dests : dests.length = 3 := rfl

theorem length_formats : formats.length = 2 := rfl

/-- The well-formed commands, command by command. -/
def commands : List Instr :=
  ((sregs ×ˢ sregs ×ˢ sregs).map fun (x : SReg × SReg × SReg) => Instr.sadd x.1 x.2.1 x.2.2) ++
  (((dests ×ˢ pregs).map fun (x : PReg × PReg) => Instr.pdbl x.1 x.2) ++
  (((dests ×ˢ pregs ×ˢ pregs).map fun (x : PReg × PReg × PReg) => Instr.padd x.1 x.2.1 x.2.2) ++
  (((dests ×ˢ sregs ×ˢ pregs).map fun (x : PReg × SReg × PReg) => Instr.pmul x.1 x.2.1 x.2.2) ++
  (((pregs ×ˢ formats).map fun (x : PReg × PointFormat) => Instr.pcomp x.1 x.2) ++
  ((dests ×ˢ formats).map fun (x : PReg × PointFormat) => Instr.pdec x.1 x.2)))))

/-- The list holds exactly the well-formed commands. -/
theorem mem_commands (i : Instr) : i ∈ commands ↔ i.WellFormed := by
  cases i <;> simp [commands, Instr.WellFormed, Instr.wellFormed]

/-- No command stands in the list twice: one command's operands differ, and two commands are different constructors. -/
theorem nodup_commands : commands.Nodup := by
  unfold commands
  refine .append ?sadd (.append ?pdbl (.append ?padd (.append ?pmul (.append ?pcomp ?pdec ?_) ?_) ?_) ?_) ?_
  case sadd => exact (nodup_sregs.product (nodup_sregs.product nodup_sregs)).map (by simp [Function.Injective])
  case pdbl => exact (nodup_dests.product nodup_pregs).map (by simp [Function.Injective])
  case padd => exact (nodup_dests.product (nodup_pregs.product nodup_pregs)).map (by simp [Function.Injective])
  case pmul => exact (nodup_dests.product (nodup_sregs.product nodup_pregs)).map (by simp [Function.Injective])
  case pcomp => exact (nodup_pregs.product nodup_formats).map (by simp [Function.Injective])
  case pdec => exact (nodup_dests.product nodup_formats).map (by simp [Function.Injective])
  all_goals exact List.disjoint_left.mpr fun i => by cases i <;> simp

/-- The legal words. -/
def legalWords : List Word := commands.map encode

/-- Two well-formed commands have two words. -/
theorem nodup_legalWords : legalWords.Nodup := by
  refine nodup_commands.map_on fun i hi j hj h => ?_
  have hdec := decode_encode ((mem_commands i).mp hi)
  rw [h, decode_encode ((mem_commands j).mp hj)] at hdec
  exact (Except.ok.inj hdec).symm

/-- The list holds exactly the words that decode. -/
theorem mem_legalWords (w : Word) : w ∈ legalWords ↔ ∃ i, decode w = .ok i := by
  simp only [legalWords, List.mem_map, mem_commands, decode_eq_ok_iff]

/-- Settles O5: the legal words are the words of the listed commands, and each command's number is the product of
the numbers of its operands. -/
theorem exactlyOneHundredEightySixLegalWords : Obligations.ExactlyOneHundredEightySixLegalWords := by
  refine ⟨legalWords, nodup_legalWords, mem_legalWords, ?_⟩
  simp [legalWords, commands, encode, List.countP_map, Function.comp_def, List.length_product, length_sregs,
    length_pregs, length_dests, length_formats]

/-! ## The assembler on the lines it prints (R73, R77) -/

/-- A character of a printed name: no separator, no comment's start and no small letter. -/
def IsNameChar (c : Char) : Prop := c ≠ ' ' ∧ c ≠ ',' ∧ c ≠ ';' ∧ c.toUpper = c

/-- A mnemonic or an operand as it is printed. -/
def IsName (t : AsmText) : Prop := t ≠ [] ∧ ∀ c ∈ t, IsNameChar c

/-- The operands of a line, separated as it prints them. -/
def operandText (ts : List AsmText) : AsmText := [',', ' '].intercalate ts

@[simp] theorem operandText_singleton (t : AsmText) : operandText [t] = t := List.intercalate_singleton

@[simp] theorem operandText_cons_cons (t u : AsmText) (ts : List AsmText) :
    operandText (t :: u :: ts) = t ++ ',' :: ' ' :: operandText (u :: ts) := by
  simp [operandText, List.intercalate_cons_cons]

/-- Text that begins with no space loses nothing. -/
theorem dropWhile_space_eq_self {t : AsmText} (h : t.head? ≠ some ' ') : t.dropWhile (· = ' ') = t := by
  cases t with
  | nil => rfl
  | cons c t => exact List.dropWhile_cons_of_neg (by simpa using h)

/-- Text with no space at its ends is trimmed already. -/
theorem trimText_eq_self {t : AsmText} (hhead : t.head? ≠ some ' ') (hlast : t.getLast? ≠ some ' ') :
    trimText t = t := by
  rw [trimText, dropWhile_space_eq_self hhead, dropWhile_space_eq_self (by rwa [List.head?_reverse]),
    List.reverse_reverse]

/-- A space before a text is dropped. -/
theorem trimText_space_cons (t : AsmText) : trimText (' ' :: t) = trimText t := rfl

section Name

variable {t : AsmText} (h : IsName t)
include h

/-- A name has no space. -/
theorem IsName.ne_space {c : Char} (hc : c ∈ t) : c ≠ ' ' := (h.2 c hc).1

/-- A name has no comma. -/
theorem IsName.ne_comma {c : Char} (hc : c ∈ t) : c ≠ ',' := (h.2 c hc).2.1

/-- A name starts no comment and is in capitals. -/
theorem IsName.isKept {c : Char} (hc : c ∈ t) : c ≠ ';' ∧ c.toUpper = c := (h.2 c hc).2.2

/-- A name does not contain the comma that ends it. -/
theorem IsName.comma_not_mem : ',' ∉ t := fun hc => h.ne_comma hc rfl

/-- A name has no space at its ends. -/
theorem IsName.trimText_eq : trimText t = t :=
  trimText_eq_self (fun e => h.ne_space (List.mem_of_mem_head? e) rfl)
    (fun e => h.ne_space (List.mem_of_mem_getLast? e) rfl)

end Name

/-- Text without a comma is one operand. -/
theorem splitCommas_of_not_mem {t : AsmText} (h : ',' ∉ t) : splitCommas t = [t] := by
  induction t with
  | nil => rfl
  | cons c t ih =>
    obtain ⟨hc, ht⟩ : ¬ ',' = c ∧ ',' ∉ t := by simpa using h
    simp [splitCommas, Ne.symm hc, ih ht]

/-- A comma ends an operand. -/
theorem splitCommas_append_comma {t : AsmText} (h : ',' ∉ t) (rest : AsmText) :
    splitCommas (t ++ ',' :: rest) = t :: splitCommas rest := by
  induction t with
  | nil => rfl
  | cons c t ih =>
    obtain ⟨hc, ht⟩ : ¬ ',' = c ∧ ',' ∉ t := by simpa using h
    simp [splitCommas, Ne.symm hc, ih ht]

/-- The operands of a printed line come back once they are split and trimmed. -/
theorem splitCommas_operandText {t : AsmText} {ts : List AsmText} (h : ∀ u ∈ t :: ts, IsName u) :
    (splitCommas (' ' :: operandText (t :: ts))).map trimText = t :: ts := by
  obtain ⟨ht, hts⟩ := List.forall_mem_cons.mp h
  have hc : ',' ∉ ' ' :: t := by simpa using ht.comma_not_mem
  induction ts generalizing t with
  | nil => simp [splitCommas_of_not_mem hc, trimText_space_cons, ht.trimText_eq]
  | cons u us ih =>
    obtain ⟨hu, hus⟩ := List.forall_mem_cons.mp hts
    have hsplit := splitCommas_append_comma hc (' ' :: operandText (u :: us))
    rw [operandText_cons_cons, ← List.cons_append, hsplit, List.map_cons,
      trimText_space_cons, ht.trimText_eq, ih hts hu hus (by simpa using hu.comma_not_mem)]

/-- Printed operands start no comment and are in capitals. -/
theorem mem_operandText {ts : List AsmText} (h : ∀ u ∈ ts, IsName u) {c : Char} (hc : c ∈ operandText ts) :
    c ≠ ';' ∧ c.toUpper = c := by
  induction ts with
  | nil => cases hc
  | cons t ts ih =>
    obtain ⟨ht, hts⟩ := List.forall_mem_cons.mp h
    have name {c : Char} (hc : c ∈ t) : c ≠ ';' ∧ c.toUpper = c := ht.isKept hc
    cases ts with
    | nil => exact name (by simpa using hc)
    | cons u us =>
      rw [operandText_cons_cons] at hc
      simp only [List.mem_append, List.mem_cons] at hc
      rcases hc with hc | rfl | rfl | hc
      · exact name hc
      · decide
      · decide
      · exact ih hts hc

/-- Printed operands end with a name. -/
theorem getLast?_operandText {t : AsmText} {ts : List AsmText} (h : ∀ u ∈ t :: ts, IsName u) :
    ∃ c, (operandText (t :: ts)).getLast? = some c ∧ c ≠ ' ' := by
  obtain ⟨ht, hts⟩ := List.forall_mem_cons.mp h
  induction ts generalizing t with
  | nil =>
    rw [operandText_singleton]
    exact ⟨_, List.getLast?_eq_some_getLast ht.1, ht.ne_space (List.getLast_mem _)⟩
  | cons u us ih =>
    obtain ⟨hu, hus⟩ := List.forall_mem_cons.mp hts
    obtain ⟨c, hlast, hc⟩ := ih hts hu hus
    exact ⟨c, by simp [List.getLast?_append, List.getLast?_cons, hlast], hc⟩

/-- A printed line is its own normal form: no comment, capitals, no space at its ends. -/
theorem trimText_asmLine {m : String} {t : AsmText} {ts : List AsmText} (hm : IsName m.toList)
    (h : ∀ u ∈ t :: ts, IsName u) :
    trimText ((dropComment (asmLine m (t :: ts))).map Char.toUpper) = asmLine m (t :: ts) := by
  have hline : asmLine m (t :: ts) = m.toList ++ ' ' :: operandText (t :: ts) := rfl
  have hchars : ∀ c ∈ asmLine m (t :: ts), c ≠ ';' ∧ c.toUpper = c := by
    intro c hc
    simp only [hline, List.mem_append, List.mem_cons] at hc
    rcases hc with hc | rfl | hc
    · exact hm.isKept hc
    · decide
    · exact mem_operandText h hc
  have hcomment : dropComment (asmLine m (t :: ts)) = asmLine m (t :: ts) :=
    List.takeWhile_eq_self_iff.mpr fun c hc => by simpa using (hchars c hc).1
  have hupper : (asmLine m (t :: ts)).map Char.toUpper = asmLine m (t :: ts) :=
    (List.map_congr_left fun c hc => (hchars c hc).2).trans (List.map_id' _)
  rw [hcomment, hupper]
  obtain ⟨c, hlast, hc⟩ := getLast?_operandText h
  refine trimText_eq_self (fun e => ?_) (fun e => ?_)
  · rw [hline, List.head?_append_of_ne_nil _ hm.1] at e
    exact hm.ne_space (List.mem_of_mem_head? e) rfl
  · simp [hline, List.getLast?_append, List.getLast?_cons, hlast, hc] at e

/-- A printed line is read as the command its mnemonic and operands name. -/
theorem assemble_asmLine {m : String} {t : AsmText} {ts : List AsmText} {i : Instr} (hm : IsName m.toList)
    (h : ∀ u ∈ t :: ts, IsName u) (hread : readCommand m (t :: ts) = .ok i) (hi : i.WellFormed) :
    assemble (asmLine m (t :: ts)) = .ok i := by
  have hmnemonic : (asmLine m (t :: ts)).takeWhile (· ≠ ' ') = m.toList := by
    rw [asmLine, List.takeWhile_append_of_pos fun c hc => by simpa using hm.ne_space hc]
    simp
  have hrest : (asmLine m (t :: ts)).drop m.toList.length = ' ' :: operandText (t :: ts) := List.drop_left
  simp only [assemble, trimText_asmLine hm h, hmnemonic, hrest, String.ofList_toList, splitCommas_operandText h, hread]
  exact if_pos hi

/-- A scalar register prints as a name. -/
theorem isName_sreg (r : SReg) : IsName (SReg.asm r) := by
  cases r <;> simp [IsName, IsNameChar, SReg.asm]

/-- A point register prints as a name. -/
theorem isName_preg (r : PReg) : IsName (PReg.asm r) := by
  cases r <;> simp [IsName, IsNameChar, PReg.asm]

/-- A format prints as a name. -/
theorem isName_format (f : PointFormat) : IsName (PointFormat.asm f) := by
  cases f <;> simp [IsName, IsNameChar, PointFormat.asm]

/-! What is printed for a register or a format is read as it. -/

@[simp] theorem readSReg_asm (r : SReg) : readSReg (SReg.asm r) = some r := by cases r <;> rfl

@[simp] theorem readPReg_asm (r : PReg) : readPReg (PReg.asm r) = some r := by cases r <;> rfl

@[simp] theorem readFormat_asm (f : PointFormat) : readFormat (PointFormat.asm f) = some f := by cases f <;> rfl

/-- The printed line of a well-formed command assembles to it. -/
theorem assemble_asm {i : Instr} (h : i.WellFormed) : assemble (Instr.asm i) = .ok i := by
  cases i
  all_goals
    refine assemble_asmLine ?_ ?_ ?_ h
    · simp [IsName, IsNameChar]
    · simp [isName_sreg, isName_preg, isName_format]
    · simp [readCommand]

/-- What assembles is well formed. -/
theorem wellFormed_of_assemble {line : AsmText} {i : Instr} (h : assemble line = .ok i) : i.WellFormed := by
  unfold assemble at h
  dsimp only at h
  split at h
  · cases h
  · split at h
    case isTrue hwf =>
      cases h
      exact hwf
    case isFalse => cases h

/-- The assembler's word is the word of the command it reads. -/
theorem assembleWord_eq_ok_iff {line : AsmText} {w : Word} :
    assembleWord line = .ok w ↔ ∃ i, assemble line = .ok i ∧ encode i = w := by
  cases h : assemble line <;> simp [assembleWord, h, Except.map]

/-- A command's word disassembles to its printed line. -/
theorem disassemble_encode {i : Instr} (h : i.WellFormed) : disassemble (encode i) = Instr.asm i := by
  simp only [disassemble, decode_encode h]

/-- Settles O8: a printed line is read as its command, and what is read is well formed, so its word decodes. -/
theorem disassemblyInvertsAssembly : Obligations.DisassemblyInvertsAssembly := by
  refine ⟨fun w i hw => ?_, fun w e he => ?_, fun i hi => ⟨assemble_asm hi, disassemble_encode hi⟩, fun line w h => ?_⟩
  · obtain ⟨hi, rfl⟩ := encode_of_decode hw
    rw [disassemble_encode hi]
    exact ⟨assemble_asm hi, assembleWord_eq_ok_iff.mpr ⟨i, assemble_asm hi, rfl⟩⟩
  · simp only [disassemble, he]
  · obtain ⟨i, hi, rfl⟩ := assembleWord_eq_ok_iff.mp h
    exact ⟨i, decode_encode (wellFormed_of_assemble hi)⟩

end Sys2Proof.Machine

/-! # Scalar addition

SADD's result, its error and what it keeps (R78, R79), the range test made of it (R83), its determinism and its range
(R85, R86), and the retry of a command that failed (R125): the statements of the family 40_scalar_add.md. -/

namespace Sys2Proof.Machine

/-! ## The sum modulo n (R78) -/

theorem addModN_comm (x y : Scalar) : addModN x y = addModN y x := by rw [addModN, addModN, Nat.add_comm]

theorem addModN_lt (x y : Scalar) : addModN x y < Config.n := Nat.mod_lt _ prime_n.pos

/-- A reduced sum fits a scalar register, so it is never truncated. -/
theorem toNat_ofNat_addModN (x y : Scalar) : (BitVec.ofNat 256 (addModN x y)).toNat = addModN x y := by
  have hn : Config.n < 2 ^ 256 := by decide
  exact Nat.mod_eq_of_lt ((addModN_lt x y).trans hn)

/-- Added to 0, a scalar is reduced by at most one subtraction of n, since 2^256 < 2n. -/
theorem addModN_zero (x : Scalar) : addModN x 0 = if x.toNat < Config.n then x.toNat else x.toNat - Config.n := by
  have hx : x.toNat < 2 * Config.n := x.isLt.trans (by decide)
  have hsum : addModN x 0 = x.toNat % Config.n := rfl
  rw [hsum]
  split
  case isTrue hlt => exact Nat.mod_eq_of_lt hlt
  case isFalse hge => rw [Nat.mod_eq_sub_mod (by omega), Nat.mod_eq_of_lt (by omega)]

/-! ## The outcome of SADD (R79) -/

/-- A sum of 0 modulo n raises PointAtInfinity. -/
theorem body_sadd_eq_error {d a b : SReg} {s : State} (h : addModN (s.readS a) (s.readS b) = 0) :
    body (.sadd d a b) s = .error .pointAtInfinity := if_pos h

/-- Any other sum is written to the destination. -/
theorem body_sadd_eq_ok {d a b : SReg} {s : State} (h : addModN (s.readS a) (s.readS b) ≠ 0) :
    body (.sadd d a b) s = .ok (s.writeS d (BitVec.ofNat 256 (addModN (s.readS a) (s.readS b)))) := if_neg h

/-- SADD's pseudocode does not tell its sources apart (R85). -/
theorem body_sadd_comm (d a b : SReg) (s : State) : body (.sadd d a b) s = body (.sadd d b a) s := by
  rw [body, body, saddBody, saddBody, addModN_comm]

/-- SADD with a sum that is not 0 modulo n succeeds with it. -/
theorem exec_sadd_wroteScalar {d a b : SReg} {s : State} (h : addModN (s.readS a) (s.readS b) ≠ 0) :
    ∃ t, exec (.sadd d a b) s = .next t ∧ WroteScalar s t d (addModN (s.readS a) (s.readS b)) := by
  refine ⟨_, by rw [exec_eq, body_sadd_eq_ok h, complete_ok], ?_⟩
  have hw := wroteScalar_retire s d (BitVec.ofNat 256 (addModN (s.readS a) (s.readS b)))
  rwa [toNat_ofNat_addModN] at hw

/-- Everything SADD can do, by its sum `r` modulo n: fail where `r` is 0, and write `r` where it is not. -/
theorem exec_sadd_cases (d a b : SReg) (s : State) : ∃ t, exec (.sadd d a b) s = .next t ∧
    ((addModN (s.readS a) (s.readS b) = 0 ∧ Failed s t .pointAtInfinity) ∨
      (addModN (s.readS a) (s.readS b) ≠ 0 ∧ WroteScalar s t d (addModN (s.readS a) (s.readS b)))) := by
  by_cases h : addModN (s.readS a) (s.readS b) = 0
  · obtain ⟨t, ht, hfail⟩ := exec_failed (body_sadd_eq_error (d := d) h)
    exact ⟨t, ht, .inl ⟨h, hfail⟩⟩
  · obtain ⟨t, ht, hwrote⟩ := exec_sadd_wroteScalar (d := d) h
    exact ⟨t, ht, .inr ⟨h, hwrote⟩⟩

/-! ## STATUS after a failure and after a success (R32) -/

theorem Failed.err_eq_true {s t : State} {e : CmdError} (h : Failed s t e) : t.err = true := by
  rw [h.ended.err, decide_eq_true (code_ne_zero e)]

theorem WroteScalar.err_eq_false {s t : State} {d : SReg} {v : Nat} (h : WroteScalar s t d v) : t.err = false :=
  h.ended.err

/-! ## The statements on SADD -/

/-- Settles O27: SADD's two outcomes, told apart by whether its sum is 0 modulo n. -/
theorem saddAddsModuloN : Obligations.SaddAddsModuloN :=
  fun _ _ _ _ => ⟨exec_sadd_wroteScalar, fun h => exec_failed (body_sadd_eq_error h)⟩

/-- Settles O28: the outcome is a function of the reduced sum, and the sum is symmetric in the sources. -/
theorem saddIsDeterministicAndCommutative : Obligations.SaddIsDeterministicAndCommutative := by
  refine ⟨fun d a b d' a' b' s s' ha hb => ?_, fun d a b s => by rw [exec_eq, exec_eq, body_sadd_comm]⟩
  obtain ⟨t, ht, h⟩ := exec_sadd_cases d a b s
  obtain ⟨t', ht', h'⟩ := exec_sadd_cases d' a' b' s'
  rw [← ha, ← hb] at h'
  refine ⟨t, t', ht, ht', ?_⟩
  rcases h with ⟨hr, hfail⟩ | ⟨hr, hwrote⟩ <;> rcases h' with ⟨hr', hfail'⟩ | ⟨hr', hwrote'⟩
  · have herr := hfail.err_eq_true
    exact ⟨hfail.ended.errcode.trans hfail'.ended.errcode.symm, fun hok => by simp [herr] at hok⟩
  · exact absurd hr hr'
  · exact absurd hr' hr
  · exact ⟨hwrote.ended.errcode.trans hwrote'.ended.errcode.symm,
      fun _ => BitVec.eq_of_toNat_eq (hwrote.value.trans hwrote'.value.symm)⟩

/-- Settles O29: a success writes the reduced sum, and the sum 0 is an error. -/
theorem saddResultLiesBelowN : Obligations.SaddResultLiesBelowN := by
  intro d a b s t ht hok
  obtain ⟨u, hu, h⟩ := exec_sadd_cases d a b s
  obtain rfl : u = t := by simpa [ht] using hu.symm
  rcases h with ⟨-, hfail⟩ | ⟨hr, hwrote⟩
  · simp [hfail.err_eq_true] at hok
  · rw [hwrote.value]
    exact ⟨Nat.pos_of_ne_zero hr, addModN_lt _ _⟩

/-- Settles O30: with 0 for the other source the sum is v below n, and v - n from n up. -/
theorem saddTestsTheRange : Obligations.SaddTestsTheRange := by
  intro d a b s _ hb
  obtain ⟨t, ht, h⟩ := exec_sadd_cases d a b s
  have hn : 0 < Config.n := prime_n.pos
  rw [hb, addModN_zero] at h
  refine ⟨t, ht, ?_⟩
  rcases h with ⟨hr, hfail⟩ | ⟨hr, hwrote⟩
  · have hv : (s.readS a).toNat = 0 ∨ (s.readS a).toNat = Config.n := by split at hr <;> omega
    have herr := hfail.err_eq_true
    refine ⟨fun _ => hfail.ended.errcode, fun h0 hlt => by omega, fun hgt => by omega, ?_⟩
    simp only [herr, true_and, Bool.true_eq_false, false_and, or_false]
    omega
  · have hv : (s.readS a).toNat ≠ 0 ∧ (s.readS a).toNat ≠ Config.n := by split at hr <;> omega
    have hok := hwrote.err_eq_false
    have hvalue := hwrote.value
    refine ⟨fun h => by omega, fun _ hlt => ⟨hwrote.ended.errcode, by rw [hvalue, if_pos hlt]⟩,
      fun hgt => ⟨hwrote.ended.errcode, by rw [hvalue, if_neg (by omega)], by omega⟩, ?_⟩
    simp only [hok, hvalue, true_and, Bool.false_eq_true, false_and, false_or]
    split <;> omega

/-! ## The retry of a failed command (R125) -/

theorem SameOperands.trans {s t u : State} (h : SameOperands s t) (h' : SameOperands t u) : SameOperands s u where
  scalars r := (h'.scalars r).trans (h.scalars r)
  points r := (h'.points r).trans (h.points r)
  encoding := ⟨h'.encoding.1.trans h.encoding.1, h'.encoding.2.trans h.encoding.2⟩

theorem Failed.sameOperands {s t : State} {e : CmdError} (h : Failed s t e) : SameOperands s t :=
  ⟨h.scalars, h.points, h.encoding⟩

/-- An issue changes nothing that a command reads (R30). -/
theorem sameOperands_issue (s : State) (w : Word) : SameOperands s (s.issue w) :=
  ⟨fun r => readS_issue s w r, fun r => readP_issue s w r, rfl, rfl⟩

theorem SameResult.eq_error {r r' : Except CmdError State} {e : CmdError} (h : SameResult r r')
    (hr : r = .error e) : r' = .error e := by
  cases h with
  | error e' => exact hr
  | ok => cases hr

/-- A command that leaves ERR at 1 failed in its pseudocode. -/
theorem body_eq_error_of_err {i : Instr} {s t : State} (ht : exec i s = .next t) (herr : t.err = true) :
    ∃ e, body i s = .error e ∧ Failed s t e := by
  rw [exec_eq] at ht
  cases ht
  cases hbody : body i s with
  | error e => exact ⟨e, rfl, failed_raise s e⟩
  | ok t => simp [hbody] at herr

/-- Settles O54: neither the failure nor the issue touches an operand, so the pseudocode raises its error again. -/
theorem retryGivesTheSameError : Obligations.RetryGivesTheSameError := by
  intro i s t w ht herr
  obtain ⟨e, hbody, hfail⟩ := body_eq_error_of_err ht herr
  have hissued : SameOperands s (t.issue w) := hfail.sameOperands.trans (sameOperands_issue t w)
  obtain ⟨u, hu, hretry⟩ := exec_failed ((hissued.body i).eq_error hbody)
  obtain ⟨scalars, points, encoding⟩ := hissued.trans hretry.sameOperands
  exact ⟨u, hu, hretry.err_eq_true, hretry.ended.errcode.trans hfail.ended.errcode.symm, scalars, points, encoding⟩

end Sys2Proof.Machine

/-! # Point arithmetic

The field inverse (R89), the affine formulas of the group law (R92, R93), the group E and its order (R90, R94, R96),
scalar multiplication as the multiple of a point (R95, R97, R104), and the three commands PDBL, PADD and PMUL (R98 to
R103): the statements of the family 41_point_arith.md. -/

namespace Sys2Proof.Machine

open Sys2Proof.Config (Fp CurvePoint)

/-! ## The field inverse (R89) -/

theorem val_fpow (z : Fp) (e : Nat) : (fpow z e).val = z.val ^ e % Config.p := by
  simp only [fpow, powMod_eq, Nat.mod_mod]

theorem natCast_val (x : Fp) : (x.val : ZMod Config.p) = fpToZ x := rfl

/-- Being an inverse as integers modulo p is being one in the field. -/
theorem mul_mod_p_eq_one_iff (z : Fp) (u : Nat) : z.val * u % Config.p = 1 ↔ fpToZ z * (u : ZMod Config.p) = 1 := by
  have hone : 1 % Config.p = 1 := by decide
  rw [← natCast_val, ← Nat.cast_mul, ← Nat.cast_one (R := ZMod Config.p), ZMod.natCast_eq_natCast_iff', hone]

theorem fpToZ_mul_finv {z : Fp} (hz : z.val ≠ 0) : fpToZ z * fpToZ (finv z) = 1 := by
  have := fact_prime_p
  rw [fpToZ_finv]
  exact mul_inv_cancel₀ (fpToZ_eq_zero.not.mpr hz)

/-- R92's denominator is not 0. -/
theorem val_sub_ne_zero {x y : Fp} (h : x ≠ y) : (y - x).val ≠ 0 := by
  rw [Ne, ← fpToZ_eq_zero, fpToZ_sub, sub_eq_zero, fpToZ_inj]
  exact h.symm

/-- R93's denominator is 0 only where y is: p is odd. -/
theorem val_fdouble_eq_zero_iff {y : Fp} : (fdouble y).val = 0 ↔ y.val = 0 := by
  have := fact_prime_p
  rw [← fpToZ_eq_zero, ← fpToZ_eq_zero, fpToZ_fdouble, mul_eq_zero, or_iff_right two_ne_zero_p]

/-- Settles O31: the power is the inverse of the library's field, and p divides neither denominator. -/
theorem fieldInverseIsTheInverse : Obligations.FieldInverseIsTheInverse := by
  have := fact_prime_p
  refine ⟨fun z hz => ?_, fun P Q h => val_sub_ne_zero h, fun P h => val_fdouble_eq_zero_iff.not.mpr h⟩
  have hinv : z.val * (finv z).val % Config.p = 1 := (mul_mod_p_eq_one_iff z _).mpr (fpToZ_mul_finv hz)
  refine ⟨Nat.pos_of_ne_zero fun h0 => by simp [h0] at hinv, val_fpow z _, hinv, fun u hu h => ?_⟩
  have heq : (u : ZMod Config.p) = fpToZ (finv z) :=
    mul_left_cancel₀ (fpToZ_eq_zero.not.mpr hz) (((mul_mod_p_eq_one_iff z u).mp h).trans (fpToZ_mul_finv hz).symm)
  rw [← val_fpToZ, ← heq, ZMod.val_cast_of_lt hu]

/-! ## The affine formulas as integers modulo p (R92, R93) -/

/-- A congruence of integers modulo p is an equation of the field. -/
theorem emod_p_eq_zero_iff (a : Int) : a % Config.p = 0 ↔ (a : ZMod Config.p) = 0 := by
  rw [ZMod.intCast_zmod_eq_zero_iff_dvd, Int.dvd_iff_emod_eq_zero]

/-- A field element is the residue of an integer when they are equal in the field. -/
theorem val_eq_emod_p_iff (x : Fp) (a : Int) : (x.val : Int) = a % Config.p ↔ fpToZ x = (a : ZMod Config.p) := by
  have hx : (x.val : Int) % Config.p = x.val := Int.emod_eq_of_lt (by omega) (by exact_mod_cast x.isLt)
  rw [← natCast_val, ← Int.cast_natCast (R := ZMod Config.p), ZMod.intCast_eq_intCast_iff', hx]

/-- The last two lines of R92 and R93. -/
theorem lineThird_eq_affine (l x1 y1 x2 : Fp) : ∃ R, lineThird l x1 y1 x2 = .affine R ∧
    (R.x.val : Int) = (l.val * l.val - x1.val - x2.val) % Config.p ∧
    (R.y.val : Int) = (l.val * (x1.val - R.x.val) - y1.val) % Config.p := by
  refine ⟨_, rfl, ?_, ?_⟩ <;> simp [val_eq_emod_p_iff, natCast_val]

/-- A slope of R92 or R93 is its numerator over its denominator. -/
theorem fpToZ_mul_finv_mul (a : Fp) {b : Fp} (hb : b.val ≠ 0) : fpToZ (a * finv b) * fpToZ b = fpToZ a := by
  rw [fpToZ_mul, mul_assoc, mul_comm (fpToZ (finv b)), fpToZ_mul_finv hb, mul_one]

/-- Two points of the curve over one x are equal or opposite. -/
theorem y_eq_or_eq_fneg {P Q : CurvePoint} (hP : onCurve P = true) (hQ : onCurve Q = true) (hx : P.x = Q.x) :
    Q.y = P.y ∨ Q.y = fneg P.y := by
  rw [onCurve, beq_iff_eq] at hP hQ
  exact eq_or_eq_fneg (by rw [hP, hQ, hx])

theorem fneg_eq_self {y : Fp} (hy : y.val = 0) : fneg y = y := by
  rw [← fpToZ_inj, fpToZ_fneg, fpToZ_eq_zero.mpr hy, neg_zero]

@[simp] theorem add_infinity (P : GroupElt) : P.add .infinity = P := by cases P <;> rfl

@[simp] theorem infinity_add (P : GroupElt) : GroupElt.add .infinity P = P := rfl

/-- The sum of two points over one x (R92). -/
theorem add_of_x_eq {P Q : CurvePoint} (hx : P.x = Q.x) : GroupElt.add (.affine P) (.affine Q) =
    if (P.y + Q.y).val = 0 then .infinity else GroupElt.dbl (.affine P) := if_pos hx

/-- The sum of two points of different x (R92). -/
theorem add_of_x_ne {P Q : CurvePoint} (hx : P.x ≠ Q.x) : GroupElt.add (.affine P) (.affine Q) =
    lineThird ((Q.y - P.y) * finv (Q.x - P.x)) P.x P.y Q.x := if_neg hx

/-- The double of a point with y = 0 (R93). -/
theorem dbl_of_y_eq_zero {P : CurvePoint} (hy : P.y.val = 0) : GroupElt.dbl (.affine P) = .infinity := if_pos hy

/-- The double of any other point (R93). -/
theorem dbl_of_y_ne_zero {P : CurvePoint} (hy : P.y.val ≠ 0) : GroupElt.dbl (.affine P) =
    lineThird (ftriple (P.x * P.x) * finv (fdouble P.y)) P.x P.y P.x := if_neg hy

/-- Settles O33: each slope is its numerator over its denominator, and the line's third point gives the rest. -/
theorem groupLawFollowsTheFormulas : Obligations.GroupLawFollowsTheFormulas := by
  refine ⟨fun P Q hP hQ hx => ?_, fun Q => ⟨rfl, add_infinity Q⟩, rfl, fun P Q hx => ?_, fun P Q hx => ?_,
    fun P hy => dbl_of_y_eq_zero hy, fun P hy => ?_⟩
  · rcases y_eq_or_eq_fneg hP hQ hx with h | h
    · exact .inl h
    · by_cases hy : P.y.val = 0
      · exact .inl (h.trans (fneg_eq_self hy))
      · exact .inr (by rw [h, val_fneg hy])
  · rw [add_of_x_eq hx, Fin.val_add]
  · obtain ⟨R, hR, hRx, hRy⟩ := lineThird_eq_affine ((Q.y - P.y) * finv (Q.x - P.x)) P.x P.y Q.x
    refine ⟨_, R, (add_of_x_ne hx).trans hR, ?_, hRx, hRy⟩
    have hl := fpToZ_mul_finv_mul (Q.y - P.y) (val_sub_ne_zero hx)
    rw [fpToZ_sub, fpToZ_sub] at hl
    rw [emod_p_eq_zero_iff]
    push_cast
    exact sub_eq_zero.mpr hl
  · obtain ⟨R, hR, hRx, hRy⟩ := lineThird_eq_affine (ftriple (P.x * P.x) * finv (fdouble P.y)) P.x P.y P.x
    refine ⟨_, R, (dbl_of_y_ne_zero hy).trans hR, ?_, by rw [hRx]; congr 1; ring, hRy⟩
    have hl := fpToZ_mul_finv_mul (ftriple (P.x * P.x)) (val_fdouble_eq_zero_iff.not.mpr hy)
    rw [fpToZ_fdouble, fpToZ_ftriple, fpToZ_mul P.x, ← mul_assoc 3] at hl
    rw [emod_p_eq_zero_iff]
    push_cast
    exact sub_eq_zero.mpr hl

/-! ## No point of the curve has y = 0 (R96) -/

/-- -7 is no cube modulo p: its power to (p - 1)/3 is not 1. -/
theorem fpow_neg_seven_ne_one : (fpow (fneg Config.b) ((Config.p - 1) / 3)).val ≠ 1 := by decide +kernel

/-- The (p - 1)/3-th power of a cube is a (p - 1)-th power, so it is 1. -/
theorem pow_third_of_cube {x : ZMod Config.p} (hx : x ≠ 0) : (x * x * x) ^ ((Config.p - 1) / 3) = 1 := by
  have := fact_prime_p
  have hp : 3 * ((Config.p - 1) / 3) = Config.p - 1 := by decide
  rw [← pow_three', ← pow_mul, hp, ZMod.pow_card_sub_one_eq_one hx]

theorem y_ne_zero_of_onCurve {P : CurvePoint} (hP : onCurve P = true) : P.y.val ≠ 0 := by
  have := fact_prime_p
  intro hy
  rw [onCurve_iff, nonsingular_iff_z, fpToZ_eq_zero.mpr hy] at hP
  have hcube : fpToZ P.x * fpToZ P.x * fpToZ P.x = fpToZ (fneg Config.b) := by
    rw [fpToZ_fneg, fpToZ_b]
    linear_combination -hP
  have hx : fpToZ P.x ≠ 0 := by
    intro h0
    have hb : fpToZ Config.b = 0 := by
      rw [fpToZ_b]
      linear_combination -hP - fpToZ P.x ^ 2 * h0
    exact absurd (fpToZ_eq_zero.mp hb) (by decide)
  have hone : fpToZ (fpow (fneg Config.b) ((Config.p - 1) / 3)) = 1 := by
    rw [fpToZ_fpow, ← hcube, pow_third_of_cube hx]
  apply fpow_neg_seven_ne_one
  rw [← val_fpToZ, hone, ZMod.val_one'' (by decide)]

theorem dbl_ne_infinity {P : CurvePoint} (hP : onCurve P = true) : GroupElt.dbl (.affine P) ≠ .infinity := by
  rw [dbl_of_y_ne_zero (y_ne_zero_of_onCurve hP)]
  nofun

/-! ## The group E (R94) -/

theorem inE_neg {P : GroupElt} (hP : P.inE = true) : P.neg.inE = true := by
  obtain ⟨P, rfl⟩ := exists_ofPoint hP
  rw [← ofPoint_neg]
  exact inE_ofPoint _

/-- A point and its negative sum to O, on the curve or off it (R91, R92). -/
theorem add_neg_self (P : GroupElt) : P.add P.neg = .infinity := by
  cases P with
  | infinity => rfl
  | affine P =>
    have hy : (P.y + fneg P.y).val = 0 := by rw [← fpToZ_eq_zero, fpToZ_add, fpToZ_fneg, add_neg_cancel]
    exact (add_of_x_eq (P := P) (Q := ⟨P.x, fneg P.y⟩) rfl).trans (if_pos hy)

/-- A sum of a point with itself is its double, on the curve or off it (R92, R100). -/
theorem add_self (P : GroupElt) : P.add P = P.dbl := by
  cases P with
  | infinity => rfl
  | affine P =>
    rw [add_of_x_eq rfl]
    split
    case isTrue hy => exact (dbl_of_y_eq_zero (val_fdouble_eq_zero_iff.mp hy)).symm
    case isFalse => rfl

theorem add_comm_of_inE {P Q : GroupElt} (hP : P.inE = true) (hQ : Q.inE = true) : P.add Q = Q.add P := by
  have := fact_prime_p
  obtain ⟨P, rfl⟩ := exists_ofPoint hP
  obtain ⟨Q, rfl⟩ := exists_ofPoint hQ
  rw [← ofPoint_add, ← ofPoint_add, add_comm]

theorem add_assoc_of_inE {P Q R : GroupElt} (hP : P.inE = true) (hQ : Q.inE = true) (hR : R.inE = true) :
    (P.add Q).add R = P.add (Q.add R) := by
  have := fact_prime_p
  obtain ⟨P, rfl⟩ := exists_ofPoint hP
  obtain ⟨Q, rfl⟩ := exists_ofPoint hQ
  obtain ⟨R, rfl⟩ := exists_ofPoint hR
  simp only [← ofPoint_add, add_assoc]

/-- Settles O35: E is the image of the library's group of the curve's points. -/
theorem groupLawIsAnAbelianGroup : Obligations.GroupLawIsAnAbelianGroup :=
  ⟨fun P hP => ⟨inE_dbl hP, rfl, add_infinity P, add_neg_self P, inE_neg hP⟩,
    fun _ _ hP hQ => ⟨inE_add hP hQ, add_comm_of_inE hP hQ⟩, fun _ _ _ => add_assoc_of_inE⟩

/-! ## Scalar multiplication is the multiple of a point (R95, R97) -/

/-- R95's recursion is the library's multiple. -/
theorem mulRec_ofPoint (k : Nat) (P : curveZ.Point) :
    haveI := fact_prime_p; GroupElt.mulRec k (ofPoint P) = ofPoint (k • P) := by
  have := fact_prime_p
  induction k with
  | zero => rw [zero_nsmul]; rfl
  | succ k ih => rw [GroupElt.mulRec, ih, ← ofPoint_add, succ_nsmul]

/-- Doubling and adding is the library's multiple, for a k of at most `fuel` bits. -/
theorem mulAux_ofPoint (fuel k : Nat) (P : curveZ.Point) (hk : k < 2 ^ fuel) :
    haveI := fact_prime_p; GroupElt.mulAux fuel k (ofPoint P) = ofPoint (k • P) := by
  have := fact_prime_p
  induction fuel generalizing k with
  | zero =>
    obtain rfl : k = 0 := by simpa using hk
    rw [zero_nsmul]
    rfl
  | succ fuel ih =>
    have hhalf : k / 2 < 2 ^ fuel := by rw [pow_succ] at hk; omega
    rw [GroupElt.mulAux, ih _ hhalf, ← ofPoint_dbl, ← two_nsmul, ← mul_nsmul']
    split
    case isTrue hodd => rw [← ofPoint_add, ← succ_nsmul, show 2 * (k / 2) + 1 = k by omega]
    case isFalse heven => rw [show 2 * (k / 2) = k by omega]

theorem mul_ofPoint (k : Nat) (P : curveZ.Point) :
    haveI := fact_prime_p; GroupElt.mul k (ofPoint P) = ofPoint (k • P) :=
  mulAux_ofPoint _ k P Nat.lt_log2_self

/-- The machine's multiple of an element of E is R95's. -/
theorem mul_eq_mulRec (k : Nat) {P : GroupElt} (hP : P.inE = true) : GroupElt.mul k P = GroupElt.mulRec k P := by
  obtain ⟨P, rfl⟩ := exists_ofPoint hP
  rw [mul_ofPoint, mulRec_ofPoint]

/-- Settles O37: both are the library's multiple. -/
theorem mulIsRepeatedAddition : Obligations.MulIsRepeatedAddition := fun k _ hP => mul_eq_mulRec k hP

/-! ## The order of E (R90)

Without Hasse's bound: E has at most 2p + 1 < 3n elements, since at most two have one x; G has the prime order n, so n
divides their number; and it is odd, since no point of the curve has y = 0. -/

theorem inE_affine_iff (P : CurvePoint) : GroupElt.inE (.affine P) = true ↔
    (P.y.val ^ 2) % Config.p = (P.x.val ^ 3 + 7) % Config.p := by
  rw [GroupElt.inE, onCurve_iff, nonsingular_iff_z, ← ZMod.natCast_eq_natCast_iff']
  push_cast
  rw [natCast_val, natCast_val, sq, pow_three']

/-- x and the parity of y pick out one point of the curve (R106). -/
theorem eq_of_x_eq_of_parity {P Q : CurvePoint} (hP : onCurve P = true) (hQ : onCurve Q = true) (hx : P.x = Q.x)
    (hy : P.y.val % 2 = Q.y.val % 2) : P = Q := by
  have hyy : Q.y = P.y := by
    refine (y_eq_or_eq_fneg hP hQ hx).resolve_right fun hneg => ?_
    have hodd := parity_fneg (y_ne_zero_of_onCurve hP)
    rw [← hneg] at hodd
    exact hodd hy.symm
  cases P
  cases Q
  cases hx
  cases hyy
  rfl

/-- x and the parity of y, none for O: a name for each element of E. -/
def xParity : GroupElt → Option (Fp × Fin 2)
  | .infinity => none
  | .affine P => some (P.x, Fin.ofNat 2 P.y.val)

theorem xParity_injOn {P Q : GroupElt} (hP : P.inE = true) (hQ : Q.inE = true) (h : xParity P = xParity Q) :
    P = Q := by
  cases P with
  | infinity => cases Q with
    | infinity => rfl
    | affine Q => cases h
  | affine P => cases Q with
    | infinity => cases h
    | affine Q =>
      obtain ⟨hx, hy⟩ : P.x = Q.x ∧ P.y.val % 2 = Q.y.val % 2 := by simpa [xParity, Fin.ext_iff] using h
      rw [eq_of_x_eq_of_parity hP hQ hx hy]

/-- The elements of E. -/
abbrev CurveElt : Type := { P : GroupElt // P.inE = true }

theorem xParity_injective : Function.Injective fun P : CurveElt => xParity P.1 :=
  fun P Q h => Subtype.ext (xParity_injOn P.2 Q.2 h)

theorem card_curveElt_le : Nat.card CurveElt ≤ 2 * Config.p + 1 := by
  have hcard := Nat.card_le_card_of_injective _ xParity_injective
  rwa [Finite.card_option, Nat.card_prod, Nat.card_fin, Nat.card_fin, mul_comm] at hcard

/-- The library's points are the elements of E. -/
theorem ofPoint_bijective : Function.Bijective fun P : curveZ.Point => (⟨ofPoint P, inE_ofPoint P⟩ : CurveElt) :=
  ⟨fun _ _ h => ofPoint_injective (congrArg Subtype.val h), fun P =>
    let ⟨Q, hQ⟩ := exists_ofPoint P.2
    ⟨Q, Subtype.ext hQ⟩⟩

theorem finite_point : Finite curveZ.Point :=
  have := Finite.of_injective _ xParity_injective
  Finite.of_injective _ ofPoint_bijective.1

/-- n·G = O (R90), by running the machine's multiplication. -/
theorem mul_n_G : GroupElt.mul Config.n (.affine Config.G) = .infinity := by decide +kernel

/-- n divides the number of elements: it is the order of G. -/
theorem n_dvd_card : Config.n ∣ Nat.card curveZ.Point := by
  have := fact_prime_p
  have : Fact Config.n.Prime := ⟨prime_n⟩
  obtain ⟨G, hG⟩ := exists_ofPoint (P := .affine Config.G) onCurve_G
  have hn : Config.n • G = 0 := ofPoint_injective (by rw [← mul_ofPoint, hG, mul_n_G, ofPoint_zero])
  have h0 : G ≠ 0 := by
    rintro rfl
    cases hG
  rw [← addOrderOf_eq_prime hn h0]
  exact addOrderOf_dvd_natCard G

/-- The number of elements is odd: an element of order 2 would be its own negative, so it would have y = 0. -/
theorem not_two_dvd_card : ¬ 2 ∣ Nat.card curveZ.Point := by
  have := fact_prime_p
  have := finite_point
  have : Fact (Nat.Prime 2) := ⟨Nat.prime_two⟩
  intro h
  obtain ⟨P, hP⟩ := exists_prime_addOrderOf_dvd_card' 2 h
  have hdbl : (ofPoint P).dbl = .infinity := by
    rw [← ofPoint_dbl, ← two_nsmul, ← hP, addOrderOf_nsmul_eq_zero, ofPoint_zero]
  have hE := inE_ofPoint P
  cases hQ : ofPoint P with
  | infinity =>
    obtain rfl : P = 0 := ofPoint_injective hQ
    simp at hP
  | affine Q =>
    rw [hQ] at hdbl hE
    exact dbl_ne_infinity hE hdbl

theorem card_point : Nat.card curveZ.Point = Config.n := by
  have := finite_point
  obtain ⟨m, hm⟩ := n_dvd_card
  have hle : Config.n * m ≤ 2 * Config.p + 1 := by
    rw [← hm, Nat.card_eq_of_bijective _ ofPoint_bijective]
    exact card_curveElt_le
  have hm3 : m < 3 := by
    have hlt : 2 * Config.p + 1 < Config.n * 3 := by decide
    exact Nat.lt_of_mul_lt_mul_left (hle.trans_lt hlt)
  have hm0 : m ≠ 0 := by
    rintro rfl
    exact absurd hm (Nat.card_pos.ne')
  have hm2 : m ≠ 2 := by
    rintro rfl
    exact not_two_dvd_card ⟨Config.n, by rw [hm, mul_comm]⟩
  obtain rfl : m = 1 := by omega
  rw [hm, mul_one]

/-- Every element but O has order n. -/
theorem addOrderOf_point {P : curveZ.Point} (hP : P ≠ 0) :
    haveI := fact_prime_p; addOrderOf P = Config.n := by
  have := fact_prime_p
  have hdvd : addOrderOf P ∣ Config.n := card_point ▸ addOrderOf_dvd_natCard P
  exact ((Nat.dvd_prime prime_n).mp hdvd).resolve_left (AddMonoid.addOrderOf_eq_one_iff.not.mpr hP)

/-- A multiple of an element other than O is O exactly for the multiples of n. -/
theorem mulRec_eq_infinity_iff {P : GroupElt} (hP : P.inE = true) (h0 : P ≠ .infinity) (k : Nat) :
    GroupElt.mulRec k P = .infinity ↔ k % Config.n = 0 := by
  have := fact_prime_p
  obtain ⟨P, rfl⟩ := exists_ofPoint hP
  have hne : P ≠ 0 := fun h => h0 (by rw [h, ofPoint_zero])
  rw [mulRec_ofPoint, ← ofPoint_zero, ofPoint_injective.eq_iff, ← addOrderOf_dvd_iff_nsmul_eq_zero,
    addOrderOf_point hne, Nat.dvd_iff_mod_eq_zero]

/-- A multiple depends on k mod n alone. -/
theorem mulRec_mod_n {P : GroupElt} (hP : P.inE = true) (k : Nat) :
    GroupElt.mulRec (k % Config.n) P = GroupElt.mulRec k P := by
  have := fact_prime_p
  obtain ⟨P, rfl⟩ := exists_ofPoint hP
  have hn : Config.n • P = 0 := card_point ▸ card_nsmul_eq_zero'
  rw [mulRec_ofPoint, mulRec_ofPoint, ← mod_addOrderOf_nsmul P (k % Config.n),
    Nat.mod_mod_of_dvd k (addOrderOf_dvd_iff_nsmul_eq_zero.mpr hn), mod_addOrderOf_nsmul]

/-- Settles O36: at most 2p + 1 elements, n dividing their number and their number odd leave n of them. -/
theorem curveHasPrimeOrder : Obligations.CurveHasPrimeOrder := by
  refine ⟨inE_affine_iff, fun P => ⟨rfl, add_infinity P⟩, prime_n, prime_p, rfl, onCurve_G,
    (Nat.card_eq_of_bijective _ ofPoint_bijective).symm.trans card_point, fun P hP h0 => ⟨?_, fun k hk hkn => ?_⟩⟩
  · exact (mulRec_eq_infinity_iff hP h0 _).mpr (Nat.mod_self _)
  · rw [Ne, mulRec_eq_infinity_iff hP h0, Nat.mod_eq_of_lt hkn]
    exact hk.ne'

/-- Settles O38: the machine's multiple is R95's, and the order of a point other than O is n. -/
theorem mulReducesModuloN : Obligations.MulReducesModuloN := by
  intro P hP
  refine ⟨rfl, fun k hk => ?_, fun h0 k => ⟨?_, ?_⟩⟩
  · obtain ⟨k, rfl⟩ := Nat.exists_eq_succ_of_ne_zero (Nat.one_le_iff_ne_zero.mp hk)
    rw [mul_eq_mulRec _ hP, mul_eq_mulRec _ hP]
    rfl
  · rw [mul_eq_mulRec _ hP, mul_eq_mulRec _ hP, mulRec_mod_n hP]
  · rw [mul_eq_mulRec _ hP, mulRec_eq_infinity_iff hP h0]

theorem mulRec_add {P : GroupElt} (hP : P.inE = true) (a b : Nat) :
    GroupElt.mulRec (a + b) P = (GroupElt.mulRec a P).add (GroupElt.mulRec b P) := by
  have := fact_prime_p
  obtain ⟨P, rfl⟩ := exists_ofPoint hP
  simp only [mulRec_ofPoint, ← ofPoint_add, add_nsmul]

/-- Settles O39: n·P is O, so the sum's reduction modulo n costs nothing. -/
theorem mulIsAdditive : Obligations.MulIsAdditive := by
  intro a b P hP
  simp only [mul_eq_mulRec _ hP]
  rw [mulRec_mod_n hP, mulRec_add hP]

/-! ## The point commands (R98 to R103) -/

/-- A command whose pseudocode ends in the group element R as the result for P[d] writes it, or fails where it is O. -/
theorem exec_of_body_eq_resultP {i : Instr} {s : State} {d : PReg} {R : GroupElt} (hd : d ≠ .p0)
    (h : body i s = s.resultP d R) :
    (∀ Q, R = .affine Q → ∃ t, exec i s = .next t ∧ WrotePoint s t d Q) ∧
    (R = .infinity → ∃ t, exec i s = .next t ∧ Failed s t .pointAtInfinity) := by
  constructor
  · rintro Q rfl
    exact exec_wrotePoint ((isDest_iff d).mpr hd) h
  · rintro rfl
    exact exec_failed h

section Commands

variable {s : State} {d a b : PReg} {k : SReg} {P Q : CurvePoint}

/-- PDBL on the point its source holds (R99). -/
theorem body_pdbl (hd : d ≠ .p0) (ha : s.readP a = .point Q) :
    body (.pdbl d a) s = s.resultP d (GroupElt.dbl (.affine Q)) := by
  rw [body, withDest_of_isDest ((isDest_iff d).mpr hd), pdblBody, sourceP_point ha]

/-- PADD on the points its sources hold (R101). -/
theorem body_padd (hd : d ≠ .p0) (ha : s.readP a = .point P) (hb : s.readP b = .point Q) :
    body (.padd d a b) s = s.resultP d (GroupElt.add (.affine P) (.affine Q)) := by
  rw [body, withDest_of_isDest ((isDest_iff d).mpr hd), paddBody, sourceP_point ha, sourceP_point hb]

/-- PMUL on the scalar and the point its sources hold (R103). -/
theorem body_pmul (hd : d ≠ .p0) (hb : s.readP b = .point Q) :
    body (.pmul d k b) s = s.resultP d (GroupElt.mul (s.readS k).toNat (.affine Q)) := by
  rw [body, withDest_of_isDest ((isDest_iff d).mpr hd), pmulBody, sourceP_point hb]

theorem body_pdbl_empty (hd : d ≠ .p0) (ha : s.readP a = .empty) :
    body (.pdbl d a) s = .error .invalidPoint := by
  rw [body, withDest_of_isDest ((isDest_iff d).mpr hd), pdblBody, sourceP_empty ha]

theorem body_pmul_empty (hd : d ≠ .p0) (hb : s.readP b = .empty) :
    body (.pmul d k b) s = .error .invalidPoint := by
  rw [body, withDest_of_isDest ((isDest_iff d).mpr hd), pmulBody, sourceP_empty hb]

theorem body_padd_empty (hd : d ≠ .p0) (h : s.readP a = .empty ∨ s.readP b = .empty) :
    body (.padd d a b) s = .error .invalidPoint := by
  rw [body, withDest_of_isDest ((isDest_iff d).mpr hd), paddBody]
  cases ha : s.readP a with
  | empty => rw [sourceP_empty ha]
  | point P => rw [sourceP_point ha, sourceP_empty (h.resolve_left (by simp [ha]))]

end Commands

/-- Settles O40: the pseudocode's result is the double, and a completion writes it or fails with it. -/
theorem pdblDoubles : Obligations.PdblDoubles := fun _ _ _ hd =>
  ⟨fun ha => exec_failed (body_pdbl_empty hd ha), fun _ ha => exec_of_body_eq_resultP hd (body_pdbl hd ha)⟩

/-- Settles O41: the pseudocode's result is the sum, and a completion writes it or fails with it. -/
theorem paddAdds : Obligations.PaddAdds := fun _ _ _ _ hd =>
  ⟨fun h => exec_failed (body_padd_empty hd h), fun _ _ ha hb => exec_of_body_eq_resultP hd (body_padd hd ha hb)⟩

/-- Settles O34: -7 is no cube, so no point of the curve has y = 0 and its double is written. -/
theorem doublingNeverGivesInfinity : Obligations.DoublingNeverGivesInfinity := by
  refine ⟨by decide, by decide, rfl, fpow_neg_seven_ne_one,
    fun P hP => ⟨y_ne_zero_of_onCurve hP, dbl_ne_infinity hP⟩, fun d a s Q hd ha hQ => ?_⟩
  cases hR : GroupElt.dbl (.affine Q) with
  | infinity => exact absurd hR (dbl_ne_infinity hQ)
  | affine R =>
    obtain ⟨t, ht, hwrote⟩ := (exec_of_body_eq_resultP hd (body_pdbl hd ha)).1 R hR
    exact ⟨t, R, ht, rfl, hwrote⟩

/-- PADD of a register with itself runs as PDBL, whatever the register holds (R100). -/
theorem body_padd_self (d a : PReg) (s : State) : body (.padd d a a) s = body (.pdbl d a) s := by
  by_cases hd : d = .p0
  · subst hd; rfl
  cases ha : s.readP a with
  | empty => rw [body_padd_empty hd (.inl ha), body_pdbl_empty hd ha]
  | point Q => rw [body_padd hd ha ha, body_pdbl hd ha, add_self]

/-- PADD's pseudocode does not tell its sources apart on valid registers (R102). -/
theorem body_padd_comm (d a b : PReg) {s : State} (hs : PointsValid s) :
    body (.padd d a b) s = body (.padd d b a) s := by
  by_cases hd : d = .p0
  · subst hd; rfl
  cases ha : s.readP a with
  | empty => rw [body_padd_empty hd (.inl ha), body_padd_empty hd (.inr ha)]
  | point P => cases hb : s.readP b with
    | empty => rw [body_padd_empty hd (.inr hb), body_padd_empty hd (.inl hb)]
    | point Q =>
      have hP : onCurve P = true := onCurve_sourceP hs (sourceP_point ha)
      have hQ : onCurve Q = true := onCurve_sourceP hs (sourceP_point hb)
      rw [body_padd hd ha hb, body_padd hd hb ha, add_comm_of_inE (P := .affine P) (Q := .affine Q) hP hQ]

/-- Settles O42: the sum of a point with itself is its double, with its negative O, and E is commutative. -/
theorem paddCornerCases : Obligations.PaddCornerCases := by
  refine ⟨fun d a s => ?_, fun d a b s Q hd ha hb => ?_, fun d a b s hs => ?_⟩
  · rw [exec_eq, exec_eq, body_padd_self]
  · exact (exec_of_body_eq_resultP hd (body_padd hd ha hb)).2 (add_neg_self (.affine Q))
  · rw [exec_eq, exec_eq, body_padd_comm d a b hs.points]

/-- Settles O43: the machine's multiple is R95's, it is O exactly when k mod n is 0, and it stays in E. -/
theorem pmulMultiplies : Obligations.PmulMultiplies := by
  intro d a b s hd
  dsimp only
  refine ⟨fun hb => exec_failed (body_pmul_empty hd hb), fun Q hb hQ => ?_⟩
  have hE : (GroupElt.affine Q).inE = true := hQ
  have hO := mulRec_eq_infinity_iff hE nofun (s.readS a).toNat
  have hbody := body_pmul (k := a) hd hb
  rw [mul_eq_mulRec _ hE] at hbody
  obtain ⟨hwrite, hfail⟩ := exec_of_body_eq_resultP hd hbody
  refine ⟨fun hk => hfail (hO.mpr hk), fun hk => ?_⟩
  cases hR : GroupElt.mulRec (s.readS a).toNat (.affine Q) with
  | infinity => exact absurd (hO.mp hR) hk
  | affine R =>
    obtain ⟨t, ht, hwrote⟩ := hwrite R hR
    have hRE : (GroupElt.affine R).inE = true := by
      rw [← hR, ← mul_eq_mulRec _ hE]
      exact inE_mul _ hE
    exact ⟨t, R, ht, (mulRec_mod_n hE _).trans hR, rfl, hRE, hwrote⟩

end Sys2Proof.Machine

/-! # Point encoding

The square root (R109) and the parity that picks one of two roots (R106), the bytes of an encoding (R105), and the two
commands PCOMP and PDEC with their round trips (R107, R110 to R114): the statements of the family
42_point_encoding.md. -/

namespace Sys2Proof.Machine

open Sys2Proof.Config (Fp CurvePoint)

/-! ## The square root and the parity (R106, R109) -/

theorem exists_mul_self_iff (α : Fp) : (∃ β : Fp, β * β = α) ↔ fsqrt α * fsqrt α = α :=
  ⟨fun ⟨_, h⟩ => fsqrt_mul_self h, fun h => ⟨_, h⟩⟩

/-- The square roots of a field element that has one are sqrt_p and its negative. -/
theorem mul_self_eq_iff {α : Fp} (h : fsqrt α * fsqrt α = α) (β : Fp) :
    β * β = α ↔ β = fsqrt α ∨ β = fneg (fsqrt α) := by
  constructor
  · intro hβ
    exact eq_or_eq_fneg (hβ.trans h.symm)
  · rintro (rfl | rfl)
    · exact h
    · rw [fneg_mul_fneg, h]

/-- The root of an element other than 0 is not 0. -/
theorem val_ne_zero_of_mul_self {α β : Fp} (h : β * β = α) (hα : α.val ≠ 0) : β.val ≠ 0 := by
  intro hβ
  rw [← h, Fin.val_mul, hβ] at hα
  exact hα rfl

/-- Settles O32: the power of a square squares to it, by Fermat, and roots differ by their sign alone. -/
theorem fieldSquareRootIsASquareRoot : Obligations.FieldSquareRootIsASquareRoot := by
  refine ⟨by decide, by decide, fun α => ⟨val_fpow α _, exists_mul_self_iff α, fun h hα => ?_⟩⟩
  have hroot : (fsqrt α).val ≠ 0 := val_ne_zero_of_mul_self h hα
  exact ⟨val_fneg hroot, mul_self_eq_iff h, (parity_fneg hroot).symm⟩

/-- Settles O46: y is not 0 and p is odd, so y and p - y differ in parity, and points over one x in sign alone. -/
theorem parityPicksOnePoint : Obligations.ParityPicksOnePoint := by
  refine fun P Q hP hQ => ⟨?_, eq_of_x_eq_of_parity hP hQ⟩
  have hy := y_ne_zero_of_onCurve hP
  have hparity := parity_fneg hy
  rw [val_fneg hy] at hparity
  omega

/-! ## The bytes of an encoding (R105) -/

/-- EBUF as byte 0, the field of x and the field of y. -/
theorem toList_ebuf (s : State) :
    s.ebuf.toList = s.ebufByte 0 :: (s.ebufBytes 1 32 ++ s.ebufBytes 33 32) := by
  have hlen : s.ebuf.toList.length = 65 := s.ebuf.length_toList
  have hhead : s.ebufByte 0 = s.ebuf.toList[0] := by simp [ebufByte_of_lt]
  have htail : s.ebufBytes 33 32 = s.ebuf.toList.drop 33 := List.take_of_length_le (by simp)
  have hfields : s.ebufBytes 1 32 ++ s.ebufBytes 33 32 = s.ebuf.toList.drop 1 := by
    rw [htail, State.ebufBytes, ← List.drop_drop (i := 32) (j := 1), List.take_append_drop]
  rw [hhead, hfields, ← List.drop_eq_getElem_cons, List.drop_zero]

/-- A byte lane as an entry of EBUF's bytes, 0 past the last. -/
theorem ebufByte_eq_getElem? (s : State) (k : Nat) : s.ebufByte k = s.ebuf.toList[k]?.getD 0 := by
  by_cases hk : k < 65
  · simp [ebufByte_of_lt s hk, hk]
  · simp [ebufByte_of_ge s (Nat.le_of_not_lt hk), hk]

/-- States whose first L bytes of EBUF agree have the same byte lanes below L. -/
theorem ebufByte_eq_of_take_eq {s t : State} {L k : Nat} (h : t.ebuf.toList.take L = s.ebuf.toList.take L)
    (hk : k < L) : t.ebufByte k = s.ebufByte k := by
  rw [ebufByte_eq_getElem?, ebufByte_eq_getElem?, ← List.getElem?_take_of_lt hk, h, List.getElem?_take_of_lt hk]

/-- A string of n bytes reads as v exactly when it is the n-byte string of v (R8). -/
theorem be2int_eq_iff {l : List Byte} {n v : Nat} (hl : l.length = n) (hv : v < 256 ^ n) :
    be2int l = v ↔ l = int2be n v := by
  constructor
  · rintro rfl
    rw [← hl, int2be_be2int]
  · rintro rfl
    exact be2int_int2be n v hv

/-- A coordinate's field holds it exactly when it is its 32-byte string (R105). -/
theorem be2int_ebufBytes_eq_iff (s : State) {i : Nat} (hi : i + 32 ≤ 65) (z : Fp) :
    be2int (s.ebufBytes i 32) = z.val ↔ s.ebufBytes i 32 = int2be 32 z.val :=
  be2int_eq_iff (length_ebufBytes s hi) (z.isLt.trans (by decide))

theorem toNat_formatLen_compressed : (formatLen .compressed).toNat = 33 := rfl

theorem toNat_formatLen_uncompressed : (formatLen .uncompressed).toNat = 65 := rfl

/-- EBUF encodes P exactly when it agrees with PCOMP's bytes up to the format's length (R105, R107). -/
theorem encodes_iff_take_eq (s : State) (f : PointFormat) (P : CurvePoint) :
    Encodes s f P ↔ s.ebuf.toList.take (formatLen f).toNat = (sec1Bytes P f).toList.take (formatLen f).toNat := by
  have hlead : s.ebufByte 0 = sec1Lead P f ↔ (s.ebufByte 0).toNat = (sec1Lead P f).toNat := BitVec.toNat_inj.symm
  have hx := be2int_ebufBytes_eq_iff s (i := 1) (by decide) P.x
  have hlenx : (s.ebufBytes 1 32).length = 32 := length_ebufBytes s (by decide)
  have hleny : (s.ebufBytes 33 32).length = 32 := length_ebufBytes s (by decide)
  rw [toList_ebuf, toList_sec1Bytes]
  cases f with
  | compressed =>
    have hparity : (sec1Lead P .compressed).toNat = 0x02 + P.y.val % 2 := by
      simp only [sec1Lead, BitVec.toNat_ofNat]
      omega
    rw [toNat_formatLen_compressed, List.take_succ_cons, List.take_succ_cons, List.take_left' hlenx,
      List.take_left' (length_int2be 32 P.x.val), List.cons.injEq, hlead, hparity, ← hx, and_comm]
    rfl
  | uncompressed =>
    have hy := be2int_ebufBytes_eq_iff s (i := 33) (by decide) P.y
    rw [toNat_formatLen_uncompressed, List.take_of_length_le (by simp [hlenx, hleny]),
      List.take_of_length_le (by simp [length_int2be, length_sec1Tail]), List.cons.injEq,
      List.append_eq_append_iff_of_size_eq_left (hlenx.trans (length_int2be 32 P.x.val).symm), hlead, ← hx,
      sec1Tail, ← hy, and_left_comm]
    rfl

/-- The two formats differ in byte 0 (R105). -/
theorem sec1Lead_injective (P : CurvePoint) : Function.Injective (sec1Lead P) := by
  have hne : sec1Lead P .compressed ≠ sec1Lead P .uncompressed := by
    rcases Nat.mod_two_eq_zero_or_one P.y.val with h | h <;> simp [sec1Lead, h]
  intro f f' h
  cases f with
  | compressed => cases f' with
    | compressed => rfl
    | uncompressed => exact absurd h hne
  | uncompressed => cases f' with
    | compressed => exact absurd h.symm hne
    | uncompressed => rfl

/-! ## PCOMP (R107) -/

theorem body_pcomp {s : State} {a : PReg} {Q : CurvePoint} (ha : s.readP a = .point Q) (f : PointFormat) :
    body (.pcomp a f) s = .ok { s with ebuf := sec1Bytes Q f, elen := formatLen f } := by
  rw [body, pcompBody, sourceP_point ha]

theorem body_pcomp_empty {s : State} {a : PReg} (ha : s.readP a = .empty) (f : PointFormat) :
    body (.pcomp a f) s = .error .invalidPoint := by
  rw [body, pcompBody, sourceP_empty ha]

/-- PCOMP of a register that holds Q commits Q's bytes and the format's length (R107). -/
theorem exec_pcomp_wroteEncoding {s : State} {a : PReg} {Q : CurvePoint} (ha : s.readP a = .point Q)
    (f : PointFormat) : ∃ t, exec (.pcomp a f) s = .next t ∧
      WroteEncoding s t (sec1Bytes Q f).toList (formatLen f).toNat :=
  ⟨_, by rw [exec_eq, body_pcomp ha, complete_ok], wroteEncoding_retire s _ _⟩

/-- Settles O44: the source's one check, then the bytes of `sec1Bytes` in each format. -/
theorem pcompEncodes : Obligations.PcompEncodes := by
  refine fun a s => ⟨fun ha f => exec_failed (body_pcomp_empty ha f), fun Q ha => ?_⟩
  have hwrote (f : PointFormat) := toList_sec1Bytes Q f ▸ exec_pcomp_wroteEncoding ha f
  exact ⟨hwrote .compressed, hwrote .uncompressed⟩

/-! ## PDEC (R110, R111) -/

theorem coordinate_eq_ok_iff {v : Nat} {z : Fp} : coordinate v = .ok z ↔ v = z.val := by
  unfold coordinate
  split
  next h => simp [Fin.ext_iff]
  next h => simpa using fun hv : v = z.val => h (hv ▸ z.isLt)

theorem eq_invalidPoint_of_coordinate {v : Nat} {e : CmdError} (h : coordinate v = .error e) : e = .invalidPoint := by
  unfold coordinate at h
  split at h <;> cases h
  rfl

/-- The prefixes of the compressed form, as numbers (R111). -/
theorem compressedPrefix_iff (b : Byte) : ¬ (b ≠ 0x02 ∧ b ≠ 0x03) ↔ b.toNat = 0x02 ∨ b.toNat = 0x03 := by
  rw [not_and_or, not_not, not_not, ← BitVec.toNat_inj, ← BitVec.toNat_inj]
  rfl

/-- What a decoder may answer after the length check: a point on the curve that EBUF encodes, or InvalidPoint where it
encodes none (R110, R111). -/
def DecodeResult (f : PointFormat) (s : State) : Except CmdError CurvePoint → Prop
  | .ok Q => onCurve Q = true ∧ Encodes s f Q
  | .error e => e = .invalidPoint ∧ ∀ P, onCurve P = true → ¬ Encodes s f P

theorem decodeCompressed_result (s : State) : DecodeResult .compressed s (decodeCompressed s) := by
  have henc (P : CurvePoint) : Encodes s .compressed P ↔
      (s.ebufByte 0).toNat = 0x02 + P.y.val % 2 ∧ coordinate (be2int (s.ebufBytes 1 32)) = .ok P.x := by
    rw [coordinate_eq_ok_iff, and_comm]
    rfl
  unfold decodeCompressed
  dsimp only
  split
  next hpre =>
    refine ⟨rfl, fun P _ hP => (compressedPrefix_iff _).mpr ?_ hpre⟩
    have := ((henc P).mp hP).1
    omega
  next hpre =>
    split
    next e hx => exact ⟨eq_invalidPoint_of_coordinate hx, fun P _ hP => by simp [((henc P).mp hP).2] at hx⟩
    next x hx =>
      split
      next hroot =>
        refine ⟨rfl, fun P hP h => hroot ?_⟩
        obtain rfl : P.x = x := Except.ok.inj (((henc P).mp h).2.symm.trans hx)
        exact fsqrt_mul_self (beq_iff_eq.mp hP)
      next hroot =>
        have hcurve : onCurve { x := x, y := fsqrt (curveRhs x) } = true := beq_iff_eq.mpr (not_not.mp hroot)
        have hparity := parity_fneg (y_ne_zero_of_onCurve hcurve)
        have hpre' := (compressedPrefix_iff _).mp hpre
        dsimp only at hparity
        split
        next h => exact ⟨hcurve, (henc _).mpr ⟨by dsimp only; omega, hx⟩⟩
        next h =>
          have hneg : onCurve { x := x, y := fneg (fsqrt (curveRhs x)) } = true := by
            rw [onCurve, fneg_mul_fneg]
            exact hcurve
          exact ⟨hneg, (henc _).mpr ⟨by dsimp only; omega, hx⟩⟩

theorem decodeUncompressed_result (s : State) : DecodeResult .uncompressed s (decodeUncompressed s) := by
  have henc (P : CurvePoint) : Encodes s .uncompressed P ↔
      s.ebufByte 0 = 0x04 ∧ coordinate (be2int (s.ebufBytes 1 32)) = .ok P.x ∧
        coordinate (be2int (s.ebufBytes 33 32)) = .ok P.y := by
    rw [coordinate_eq_ok_iff, coordinate_eq_ok_iff, ← BitVec.toNat_inj, and_left_comm]
    rfl
  unfold decodeUncompressed
  split
  next hpre => exact ⟨rfl, fun P _ hP => hpre ((henc P).mp hP).1⟩
  next hpre =>
    split
    next x y hx hy =>
      split
      next hcurve =>
        refine ⟨rfl, fun P hP h => hcurve ?_⟩
        obtain ⟨-, hPx, hPy⟩ := (henc P).mp h
        obtain rfl : P.x = x := Except.ok.inj (hPx.symm.trans hx)
        obtain rfl : P.y = y := Except.ok.inj (hPy.symm.trans hy)
        exact beq_iff_eq.mp hP
      next hcurve => exact ⟨beq_iff_eq.mpr (not_not.mp hcurve), (henc _).mpr ⟨not_not.mp hpre, hx, hy⟩⟩
    next hnone =>
      refine ⟨rfl, fun P _ h => ?_⟩
      obtain ⟨-, hPx, hPy⟩ := (henc P).mp h
      exact hnone _ _ hPx hPy

/-- PDEC's decoder of a format (R111). -/
def decodePoint : PointFormat → State → Except CmdError CurvePoint
  | .compressed => decodeCompressed
  | .uncompressed => decodeUncompressed

theorem decodePoint_result (f : PointFormat) (s : State) : DecodeResult f s (decodePoint f s) := by
  cases f with
  | compressed => exact decodeCompressed_result s
  | uncompressed => exact decodeUncompressed_result s

/-- EBUF encodes at most one point of the curve in a format (R105, R106). -/
theorem encodes_unique {f : PointFormat} {s : State} {P Q : CurvePoint} (hP : onCurve P = true)
    (hQ : onCurve Q = true) (h : Encodes s f P) (h' : Encodes s f Q) : P = Q := by
  obtain ⟨hx, h⟩ := h
  obtain ⟨hx', h'⟩ := h'
  refine eq_of_x_eq_of_parity hP hQ (Fin.ext (hx.symm.trans hx')) ?_
  cases f with
  | compressed => exact Nat.add_left_cancel (h.symm.trans h')
  | uncompressed => rw [← h.2, ← h'.2]

/-- The decoder of a format answers the one point on the curve that EBUF encodes (R110, R111). -/
theorem decodePoint_eq_ok {f : PointFormat} {s : State} {P : CurvePoint} (hP : onCurve P = true)
    (henc : Encodes s f P) : decodePoint f s = .ok P := by
  have hresult := decodePoint_result f s
  cases hdec : decodePoint f s with
  | error e =>
    rw [hdec] at hresult
    exact absurd henc (hresult.2 P hP)
  | ok Q =>
    rw [hdec] at hresult
    rw [encodes_unique hresult.1 hP hresult.2 henc]

theorem decodePoint_eq_error {f : PointFormat} {s : State} (h : ¬ ∃ P, onCurve P = true ∧ Encodes s f P) :
    decodePoint f s = .error .invalidPoint := by
  have hresult := decodePoint_result f s
  cases hdec : decodePoint f s with
  | error e =>
    rw [hdec] at hresult
    rw [hresult.1]
  | ok Q =>
    rw [hdec] at hresult
    exact absurd ⟨Q, hresult⟩ h

/-- PDEC under a length other than the format's (R110). -/
theorem body_pdec_of_elen_ne {d : PReg} {f : PointFormat} {s : State} (hd : d ≠ .p0) (hlen : s.elen ≠ formatLen f) :
    body (.pdec d f) s = .error .invalidInputLength := by
  rw [body, withDest_of_isDest ((isDest_iff d).mpr hd), pdecBody.eq_def, if_pos hlen]

/-- PDEC under the format's length writes what the decoder answers (R111). -/
theorem body_pdec_of_elen_eq {d : PReg} {f : PointFormat} {s : State} (hd : d ≠ .p0) (hlen : s.elen = formatLen f) :
    body (.pdec d f) s = (decodePoint f s).map (s.writeP d) := by
  rw [body, withDest_of_isDest ((isDest_iff d).mpr hd), pdecBody.eq_def, if_neg (not_not.mpr hlen)]
  cases f with
  | compressed => rw [decodePoint]; cases decodeCompressed s <;> rfl
  | uncompressed => rw [decodePoint]; cases decodeUncompressed s <;> rfl

/-- PDEC writes the point on the curve that EBUF encodes (R111). -/
theorem exec_pdec_wrotePoint {d : PReg} {f : PointFormat} {s : State} {P : CurvePoint} (hd : d ≠ .p0)
    (hlen : s.elen = formatLen f) (hP : onCurve P = true) (henc : Encodes s f P) :
    ∃ t, exec (.pdec d f) s = .next t ∧ WrotePoint s t d P :=
  exec_wrotePoint ((isDest_iff d).mpr hd) (by rw [body_pdec_of_elen_eq hd hlen, decodePoint_eq_ok hP henc]; rfl)

/-- PDEC raises InvalidPoint where EBUF encodes no point on the curve (R111). -/
theorem exec_pdec_invalidPoint {d : PReg} {f : PointFormat} {s : State} (hd : d ≠ .p0) (hlen : s.elen = formatLen f)
    (h : ¬ ∃ P, onCurve P = true ∧ Encodes s f P) :
    ∃ t, exec (.pdec d f) s = .next t ∧ Failed s t .invalidPoint :=
  exec_failed (by rw [body_pdec_of_elen_eq hd hlen, decodePoint_eq_error h]; rfl)

/-- Settles O45: the length first, then the decoder's answer, which is the one point EBUF encodes or InvalidPoint. -/
theorem pdecDecodes : Obligations.PdecDecodes := by
  intro d f s hd
  have hL : s.elen = formatLen f ↔ s.elen.toNat = match f with
      | .compressed => 33
      | .uncompressed => 65 := by
    cases f <;> exact BitVec.toNat_inj.symm
  refine ⟨fun hne => exec_failed (body_pdec_of_elen_ne hd (hL.not.mpr hne)), fun heq => ?_⟩
  exact ⟨fun P hP => exec_pdec_wrotePoint hd (hL.mpr heq) hP, exec_pdec_invalidPoint hd (hL.mpr heq)⟩

/-! ## Round trips (R113) -/

/-- A PDEC that leaves ERR at 0 found the format's length and a point, and wrote it (R111). -/
theorem wrotePoint_of_pdec {d : PReg} {f : PointFormat} {s t : State} (hd : d ≠ .p0)
    (ht : exec (.pdec d f) s = .next t) (herr : t.err = false) :
    s.elen = formatLen f ∧ ∃ P, Encodes s f P ∧ WrotePoint s t d P := by
  have hnot {e : CmdError} : ¬ ∃ u, exec (.pdec d f) s = .next u ∧ Failed s u e := by
    rintro ⟨u, hu, hfail⟩
    obtain rfl : u = t := by simpa [hu] using ht
    simp [hfail.err_eq_true] at herr
  have hlen : s.elen = formatLen f := by
    by_contra hne
    exact hnot (exec_failed (body_pdec_of_elen_ne hd hne))
  refine ⟨hlen, ?_⟩
  by_cases hex : ∃ P, onCurve P = true ∧ Encodes s f P
  · obtain ⟨P, hP, henc⟩ := hex
    obtain ⟨u, hu, hwrote⟩ := exec_pdec_wrotePoint hd hlen hP henc
    obtain rfl : u = t := by simpa [hu] using ht
    exact ⟨P, henc, hwrote⟩
  · exact absurd (exec_pdec_invalidPoint hd hlen hex) hnot

section PcompOutcome

variable {s t : State} {f : PointFormat} {Q : CurvePoint}
  (h : WroteEncoding s t (sec1Bytes Q f).toList (formatLen f).toNat)

include h

theorem WroteEncoding.elen_eq : t.elen = formatLen f := BitVec.eq_of_toNat_eq h.len

theorem WroteEncoding.encodes : Encodes t f Q := by
  rw [encodes_iff_take_eq, h.bytes]

theorem WroteEncoding.ebufByte_zero : t.ebufByte 0 = sec1Lead Q f := by
  rw [ebufByte_eq_getElem?, h.bytes, toList_sec1Bytes]
  rfl

end PcompOutcome

/-- The compressed form leaves zeros past its 33 bytes (R107). -/
theorem WroteEncoding.ebufByte_compressed {s t : State} {Q : CurvePoint} {len k : Nat}
    (h : WroteEncoding s t (sec1Bytes Q .compressed).toList len) (hk : 33 ≤ k) : t.ebufByte k = 0 := by
  obtain ⟨j, rfl⟩ : ∃ j, k = 32 + j + 1 := ⟨k - 33, by omega⟩
  rw [ebufByte_eq_getElem?, h.bytes, toList_sec1Bytes, List.getElem?_cons_succ,
    List.getElem?_append_right (by simp [length_int2be]), sec1Tail, List.getElem?_replicate]
  split <;> rfl

/-- Settles O47: PCOMP's bytes encode its point alone, and EBUF's encoding of a point is PCOMP's bytes. -/
theorem encodingRoundTrips : Obligations.EncodingRoundTrips := by
  refine ⟨fun a d f s Q hd ha hQ => ?_, fun d f s t hd ht herr => ?_, fun a f f' s Q hf ha => ?_⟩
  · obtain ⟨t, ht, hcomp⟩ := exec_pcomp_wroteEncoding ha f
    obtain ⟨u, hu, hdec⟩ := exec_pdec_wrotePoint hd hcomp.elen_eq hQ hcomp.encodes
    exact ⟨t, u, ht, hu, hdec.ended.err, hdec.value.trans ha.symm⟩
  · obtain ⟨hlen, P, henc, hdec⟩ := wrotePoint_of_pdec hd ht herr
    obtain ⟨u, hu, hcomp⟩ := exec_pcomp_wroteEncoding hdec.value f
    refine ⟨u, hu, hcomp.ended.err, hcomp.elen_eq.trans hlen.symm, fun k hk => ?_, fun hf k hk => ?_⟩
    · rw [hlen] at hk
      rw [encodes_iff_take_eq, ← hcomp.bytes] at henc
      exact ebufByte_eq_of_take_eq henc.symm hk
    · subst hf
      exact hcomp.ebufByte_compressed hk
  · obtain ⟨t, ht, hcomp⟩ := exec_pcomp_wroteEncoding ha f
    obtain ⟨t', ht', hcomp'⟩ := exec_pcomp_wroteEncoding ha f'
    refine ⟨t, t', ht, ht', hcomp.points a, hcomp'.points a, ?_⟩
    rw [hcomp.ebufByte_zero, hcomp'.ebufByte_zero]
    exact (sec1Lead_injective Q).ne hf

end Sys2Proof.Machine

/-! # Errors

What makes each command's pseudocode end in each error (R117, R118), the ERRCODE a completion leaves, and what a failed
command leaves alone (R123): the statements of the family 60_exceptions.md. -/

namespace Sys2Proof.Machine

open Sys2Proof.Config (CurvePoint)

/-! ## The causes of each error (R117, R118) -/

theorem resultP_eq_error_iff {s : State} {d : PReg} {R : GroupElt} {e : CmdError} :
    s.resultP d R = .error e ↔ e = .pointAtInfinity ∧ R = .infinity := by
  cases R with
  | infinity => simp [eq_comm]
  | affine P => simp

section Causes

variable {s : State} {d a b : PReg} {f : PointFormat} {e : CmdError}

/-- SADD's one error (R79). -/
theorem body_sadd_eq_error_iff {d a b : SReg} : body (.sadd d a b) s = .error e ↔
    e = .pointAtInfinity ∧ addModN (s.readS a) (s.readS b) = 0 := by
  by_cases h : addModN (s.readS a) (s.readS b) = 0
  · simp [body_sadd_eq_error h, h, eq_comm]
  · simp [body_sadd_eq_ok h, h]

/-- PDBL's errors, on any contents of its source (R99). -/
theorem body_pdbl_eq_error_iff (hd : d ≠ .p0) : body (.pdbl d a) s = .error e ↔
    e = .invalidPoint ∧ s.readP a = .empty ∨
    e = .pointAtInfinity ∧ ∃ Q, s.readP a = .point Q ∧ GroupElt.dbl (.affine Q) = .infinity := by
  cases ha : s.readP a with
  | empty => simp [body_pdbl_empty hd ha, eq_comm]
  | point Q => simp [body_pdbl hd ha, resultP_eq_error_iff]

/-- PADD's errors, on any contents of its sources (R101). -/
theorem body_padd_eq_error_iff (hd : d ≠ .p0) : body (.padd d a b) s = .error e ↔
    e = .invalidPoint ∧ (s.readP a = .empty ∨ s.readP b = .empty) ∨
    e = .pointAtInfinity ∧ ∃ P Q, s.readP a = .point P ∧ s.readP b = .point Q ∧
      GroupElt.add (.affine P) (.affine Q) = .infinity := by
  cases ha : s.readP a with
  | empty => simp [body_padd_empty hd (.inl ha), eq_comm]
  | point P =>
    cases hb : s.readP b with
    | empty => simp [body_padd_empty hd (.inr hb), eq_comm]
    | point Q => simp [body_padd hd ha hb, resultP_eq_error_iff]

/-- PMUL's errors, on any contents of its sources (R103). -/
theorem body_pmul_eq_error_iff {a : SReg} (hd : d ≠ .p0) : body (.pmul d a b) s = .error e ↔
    e = .invalidPoint ∧ s.readP b = .empty ∨
    e = .pointAtInfinity ∧ ∃ Q, s.readP b = .point Q ∧
      GroupElt.mul (s.readS a).toNat (.affine Q) = .infinity := by
  cases hb : s.readP b with
  | empty => simp [body_pmul_empty hd hb, eq_comm]
  | point Q => simp [body_pmul hd hb, resultP_eq_error_iff]

/-- PCOMP's one error (R107). -/
theorem body_pcomp_eq_error_iff : body (.pcomp a f) s = .error e ↔ e = .invalidPoint ∧ s.readP a = .empty := by
  cases ha : s.readP a with
  | empty => simp [body_pcomp_empty ha, eq_comm]
  | point Q => simp [body_pcomp ha]

/-- PDEC's errors, the length before the bytes (R110, R111). -/
theorem body_pdec_eq_error_iff (hd : d ≠ .p0) : body (.pdec d f) s = .error e ↔
    e = .invalidInputLength ∧ s.elen ≠ formatLen f ∨
    e = .invalidPoint ∧ s.elen = formatLen f ∧ ¬ ∃ P, onCurve P = true ∧ Encodes s f P := by
  by_cases hlen : s.elen = formatLen f
  · rw [body_pdec_of_elen_eq hd hlen]
    by_cases hex : ∃ P, onCurve P = true ∧ Encodes s f P
    · have ⟨P, hP, henc⟩ := hex
      simp [decodePoint_eq_ok hP henc, hlen, hex, Except.map]
    · simp [decodePoint_eq_error hex, hlen, hex, Except.map, eq_comm (b := e)]
  · simp [body_pdec_of_elen_ne hd hlen, hlen, eq_comm (b := e)]

end Causes

/-- A command but PDEC raises InvalidPoint exactly for an EMPTY source (R117). -/
theorem body_eq_invalidPoint_iff {i : Instr} {s : State} (hi : i.WellFormed) (hpdec : ∀ d f, i ≠ .pdec d f) :
    body i s = .error .invalidPoint ↔ ∃ r ∈ sourcesP i, s.readP r = .empty := by
  cases i with
  | sadd d a b => simp [body_sadd_eq_error_iff, sourcesP]
  | pdbl d a => simp [body_pdbl_eq_error_iff ((isDest_iff d).mp hi), sourcesP]
  | padd d a b => simp [body_padd_eq_error_iff ((isDest_iff d).mp hi), sourcesP]
  | pmul d a b => simp [body_pmul_eq_error_iff ((isDest_iff d).mp hi), sourcesP]
  | pcomp a f => simp [body_pcomp_eq_error_iff, sourcesP]
  | pdec d f => exact absurd rfl (hpdec d f)

/-- InvalidCommand is never a well-formed command's error: only an illegal word raises it (R71, R118). -/
theorem body_ne_invalidCommand {i : Instr} (hi : i.WellFormed) (s : State) : body i s ≠ .error .invalidCommand := by
  cases i with
  | sadd d a b => simp [body_sadd_eq_error_iff]
  | pdbl d a => simp [body_pdbl_eq_error_iff ((isDest_iff d).mp hi)]
  | padd d a b => simp [body_padd_eq_error_iff ((isDest_iff d).mp hi)]
  | pmul d a b => simp [body_pmul_eq_error_iff ((isDest_iff d).mp hi)]
  | pcomp a f => simp [body_pcomp_eq_error_iff]
  | pdec d f => simp [body_pdec_eq_error_iff ((isDest_iff d).mp hi)]

/-! ## The causes on points of the curve (R91, R95, R96) -/

theorem add_eq_infinity_iff {P Q : GroupElt} (hP : P.inE = true) (hQ : Q.inE = true) :
    P.add Q = .infinity ↔ Q = P.neg := by
  have := fact_prime_p
  obtain ⟨P, rfl⟩ := exists_ofPoint hP
  obtain ⟨Q, rfl⟩ := exists_ofPoint hQ
  rw [← ofPoint_add, ← ofPoint_neg, ← ofPoint_zero, ofPoint_injective.eq_iff, ofPoint_injective.eq_iff,
    eq_neg_iff_add_eq_zero, add_comm]

theorem add_affine_eq_infinity_iff {P Q : CurvePoint} (hP : onCurve P = true) (hQ : onCurve Q = true) :
    GroupElt.add (.affine P) (.affine Q) = .infinity ↔ Q = { x := P.x, y := fneg P.y } :=
  (add_eq_infinity_iff (P := .affine P) (Q := .affine Q) hP hQ).trans (by rw [GroupElt.neg, GroupElt.affine.injEq])

section ValidPoints

variable {s : State} {d a b : PReg} {e : CmdError} (hs : PointsValid s)
include hs

theorem onCurve_of_readP {Q : CurvePoint} (h : s.readP a = .point Q) : onCurve Q = true :=
  onCurve_sourceP hs (sourceP_point h)

/-- PDBL of a point on the curve never fails (R96). -/
theorem body_pdbl_eq_error_iff_of_valid (hd : d ≠ .p0) : body (.pdbl d a) s = .error e ↔
    e = .invalidPoint ∧ s.readP a = .empty := by
  have hnone : ¬ ∃ Q, s.readP a = .point Q ∧ GroupElt.dbl (.affine Q) = .infinity :=
    fun ⟨Q, ha, hdbl⟩ => dbl_ne_infinity (onCurve_of_readP hs ha) hdbl
  rw [body_pdbl_eq_error_iff hd]
  simp only [hnone, and_false, or_false]

/-- PADD of points on the curve fails for a point and its negative alone (R91). -/
theorem body_padd_eq_error_iff_of_valid (hd : d ≠ .p0) : body (.padd d a b) s = .error e ↔
    e = .invalidPoint ∧ (s.readP a = .empty ∨ s.readP b = .empty) ∨
    e = .pointAtInfinity ∧ ∃ Q, s.readP a = .point Q ∧ s.readP b = .point { x := Q.x, y := fneg Q.y } := by
  have hO : (∃ P Q, s.readP a = .point P ∧ s.readP b = .point Q ∧
      GroupElt.add (.affine P) (.affine Q) = .infinity) ↔
      ∃ Q, s.readP a = .point Q ∧ s.readP b = .point { x := Q.x, y := fneg Q.y } := by
    refine exists_congr fun P => ⟨?_, fun ⟨ha, hb⟩ => ⟨_, ha, hb, add_neg_self (.affine P)⟩⟩
    rintro ⟨Q, ha, hb, hadd⟩
    rw [add_affine_eq_infinity_iff (onCurve_of_readP hs ha) (onCurve_of_readP hs hb)] at hadd
    exact ⟨ha, hadd ▸ hb⟩
  rw [body_padd_eq_error_iff hd, hO]

/-- PMUL of a point on the curve fails for the multiples of n alone (R95). -/
theorem body_pmul_eq_error_iff_of_valid {a : SReg} (hd : d ≠ .p0) : body (.pmul d a b) s = .error e ↔
    e = .invalidPoint ∧ s.readP b = .empty ∨
    e = .pointAtInfinity ∧ s.readP b ≠ .empty ∧ (s.readS a).toNat % Config.n = 0 := by
  rw [body_pmul_eq_error_iff hd]
  cases hb : s.readP b with
  | empty => simp
  | point Q =>
    have hE : (GroupElt.affine Q).inE = true := onCurve_of_readP hs hb
    simp [mul_eq_mulRec _ hE, mulRec_eq_infinity_iff hE]

end ValidPoints

/-! ## The ERRCODE a command leaves (R32, R116) -/

/-- ERRCODE after a completion is an error's code exactly when the pseudocode ended in that error. -/
theorem errcode_complete_eq_code_iff {s : State} {r : Except CmdError State} {e : CmdError} :
    (s.complete r).errcode = e.code ↔ r = .error e := by
  cases r with
  | error e' =>
    rw [complete_error, raise_errcode, Except.error.injEq]
    exact ⟨code_inj, congrArg _⟩
  | ok t => exact iff_of_false (code_ne_zero e).symm nofun

theorem body_of_errcode {i : Instr} {s t : State} {e : CmdError} (ht : exec i s = .next t)
    (hcode : t.errcode = e.code) : body i s = .error e := by
  rw [exec_eq] at ht
  cases ht
  exact errcode_complete_eq_code_iff.mp hcode

section Errcode

variable {i : Instr} {s : State}

/-- A command with the two errors e₁ and e₂ ends with code 0 or the code of the one whose cause holds. -/
theorem exec_errcode_of_two {e₁ e₂ : CmdError} {c₁ c₂ : Prop}
    (h : ∀ {e}, body i s = .error e ↔ e = e₁ ∧ c₁ ∨ e = e₂ ∧ c₂) (hne : e₁ ≠ e₂) :
    ∃ t, exec i s = .next t ∧ (t.errcode = 0 ∨ t.errcode = e₁.code ∨ t.errcode = e₂.code) ∧
      (t.errcode = e₁.code ↔ c₁) ∧ (t.errcode = e₂.code ↔ c₂) := by
  refine ⟨_, exec_eq i s, ?_, ?_, ?_⟩
  · cases hbody : body i s with
    | error e =>
      rcases h.mp hbody with ⟨rfl, -⟩ | ⟨rfl, -⟩
      · exact .inr (.inl rfl)
      · exact .inr (.inr rfl)
    | ok t => exact .inl rfl
  · simp [errcode_complete_eq_code_iff, h, hne]
  · simp [errcode_complete_eq_code_iff, h, hne.symm]

/-- A command with the one error e₁ ends with its code where its cause holds, and with code 0 elsewhere. -/
theorem exec_errcode_of_one {e₁ : CmdError} {c₁ : Prop} (h : ∀ {e}, body i s = .error e ↔ e = e₁ ∧ c₁) :
    ∃ t, exec i s = .next t ∧ (t.errcode = 0 ∨ t.errcode = e₁.code) ∧ (t.errcode = e₁.code ↔ c₁) := by
  refine ⟨_, exec_eq i s, ?_, by simp [errcode_complete_eq_code_iff, h]⟩
  cases hbody : body i s with
  | error e =>
    obtain ⟨rfl, -⟩ := h.mp hbody
    exact .inr rfl
  | ok t => exact .inl rfl

end Errcode

/-- A word completes with InvalidCommand exactly when it does not decode (R69, R71). -/
theorem errcode_completion_eq_invalidCommand_iff (w : Word) (s : State) : (∃ e, decode w = .error e) ↔
    ∃ t, completion w s = .next t ∧ t.errcode = CmdError.invalidCommand.code := by
  refine ⟨fun ⟨e, hw⟩ => ⟨_, completion_error hw s, rfl⟩, fun ⟨t, ht, hcode⟩ => ?_⟩
  cases hw : decode w with
  | error e => exact ⟨e, rfl⟩
  | ok i =>
    rw [completion_ok hw] at ht
    exact absurd (body_of_errcode ht hcode) (body_ne_invalidCommand (encode_of_decode hw).1 s)

/-! ## What a failure leaves alone (R123) -/

/-- A completion that leaves ERR at 1, of a legal or an illegal word, failed with some error. -/
theorem failed_of_completion {w : Word} {s t : State} (ht : completion w s = .next t) (herr : t.err = true) :
    ∃ e, Failed s t e := by
  cases hw : decode w with
  | error e =>
    rw [completion_error hw] at ht
    cases ht
    exact ⟨_, failed_raise s _⟩
  | ok i =>
    rw [completion_ok hw] at ht
    obtain ⟨e, -, hfail⟩ := body_eq_error_of_err ht herr
    exact ⟨e, hfail⟩

/-- Two states with the same operands and IE differ for the host in STATUS and LASTCMD alone. -/
theorem SameOperands.regRead {s t : State} (h : SameOperands s t) (hie : t.ie = s.ie) {off : Nat}
    (hstatus : regAt off ≠ .status) (hlast : regAt off ≠ .lastcmd) : t.regRead off = s.regRead off :=
  readReg_congr _ (fun hr => absurd hr hstatus) (fun _ => hie) (fun _ => h.encoding.2) (fun hr => absurd hr hlast)
    (fun i _ _ => h.scalars i) (fun _ _ => h.encoding.1)

/-! ## The statements on errors -/

/-- Settles O49: every EMPTY source is tested, and no other test of a command but PDEC raises InvalidPoint. -/
theorem emptySourceRaisesInvalidPoint : Obligations.EmptySourceRaisesInvalidPoint := by
  refine fun i s hi => ⟨fun hempty => exec_failed ((body_eq_invalidPoint_iff hi ?_).mpr hempty),
    fun hpdec t ht hcode => (body_eq_invalidPoint_iff hi hpdec).mp (body_of_errcode ht hcode)⟩
  rintro d f rfl
  obtain ⟨r, hr, -⟩ := hempty
  cases hr

/-- Settles O50: a completion's ERRCODE is the error its pseudocode ends in, whose causes are known on points of the
curve. -/
theorem errorTable : Obligations.ErrorTable := by
  intro s hs
  have hvalid : PointsValid s := hs.points
  exact ⟨fun w => errcode_completion_eq_invalidCommand_iff w s,
    fun _ _ _ => exec_errcode_of_one body_sadd_eq_error_iff,
    fun _ _ hd => exec_errcode_of_one (body_pdbl_eq_error_iff_of_valid hvalid hd),
    fun _ _ _ hd => exec_errcode_of_two (body_padd_eq_error_iff_of_valid hvalid hd) nofun,
    fun _ _ _ hd => exec_errcode_of_two (body_pmul_eq_error_iff_of_valid hvalid hd) nofun,
    fun _ _ => exec_errcode_of_one body_pcomp_eq_error_iff,
    fun _ _ hd => exec_errcode_of_two (body_pdec_eq_error_iff hd) nofun⟩

/-- Settles O51: the completion raised an error, which touches neither an operand nor IE, and neither does an issue. -/
theorem errorsAreAllOrNothing : Obligations.ErrorsAreAllOrNothing := by
  intro w s t hq ht herr
  obtain ⟨e, hfail⟩ := failed_of_completion ht herr
  obtain ⟨ended, scalars, points, encoding, outside⟩ := hfail
  have same : SameOperands s t := ⟨scalars, points, encoding⟩
  refine ⟨scalars, points, encoding, outside, ended.ie, ended.ovr, ended.lastcmd w hq,
    ended.errcode ▸ code_ne_zero e, ended.busy, ended.done, fun off => same.regRead ended.ie, ?_⟩
  rintro s0 rfl
  have before : SameOperands s0 t := (sameOperands_issue s0 w).trans same
  exact ⟨before.scalars, before.points, before.encoding, outside, fun off => before.regRead ended.ie⟩

end Sys2Proof.Machine

/-! # Reset

The values the registers hold after a reset (R138), and the step that takes one (R137, R139): the statements of the
family 70_reset_and_hazards.md. -/

namespace Sys2Proof.Machine

/-- The operands after reset are those SCRUB leaves (R22, R138). -/
theorem scrub_reset : State.reset.scrub = State.reset := rfl

theorem readS_reset (i : SReg) : State.reset.readS i = 0 := by
  rw [← scrub_reset, readS_scrub]

theorem ebufByte_reset (k : Nat) : State.reset.ebufByte k = 0 := by
  rw [← scrub_reset, ebufByte_scrub]

/-- The step with a reset next takes it, whatever is pending and whatever access coincides with it (R137, R139). -/
theorem step_reset {s : State} {lost : Option Access} {rest : List Event} (hi : s.inbox = .reset lost :: rest) :
    step s = .next (State.takeReset { s with inbox := rest }) := by
  simp only [step, hi]

/-- Settles O16: the scalars and EBUF hold what SCRUB leaves, and each other value is a field of the reset state, a
constant, or a word put together from fields that are 0. -/
theorem resetValues : Obligations.ResetValues :=
  ⟨readS_reset, rfl, rfl, rfl, rfl, rfl, rfl, rfl, rfl, rfl, rfl, ebufByte_reset, rfl, rfl, rfl, rfl, rfl, rfl, rfl,
    rfl⟩

/-- Settles O17: the reset state with the events to come and the host's record put back is what `takeReset` leaves. -/
theorem resetDiscardsThePendingCommand : Obligations.ResetDiscardsThePendingCommand :=
  fun _ _ _ hi => step_reset hi

end Sys2Proof.Machine
